-- ==== Sys2Proof/Word.lean ====
section
/-! DEFINITION. The types every value of the codec is made of: bits, vectors of bits, matrices of bits
(00_scope.md section 3; 30_encoding.md R34, R35). -/

namespace Sys2Proof

/-- A vector over {0,1} in list form, element 0 first (R35). Its length is the vector's length; every
element is 0 or 1 by type (R122). Element `i` is on port bit `i` (R34). -/
abbrev Bits := List Bool

/-- A matrix of bits as its list of rows, row 0 first, each row leftmost column first (00_scope.md section 3). -/
abbrev Matrix := List Bits

/-- `v[i]`, counted from 0 (R7). Beyond the vector's length, where the spec gives no element, this reads 0;
no rule is ever applied there, because every operand has its exact length (R27). -/
def bitAt (v : Bits) (i : Nat) : Bool := v.getD i false

/-- `M[r][c]`. -/
def entry (M : Matrix) (r c : Nat) : Bool := bitAt (M.getD r []) c

end Sys2Proof
end

