-- ==== Sys2Proof/Config.lean ====
section
/-! DEFINITION. What is fixed when an instance is built, the values the model names for the reset instance, and
the values the spec leaves open (00_scope.md R4, R5; 92_eei_decisions.md, "Open parameters, in one place"). -/

namespace Sys2Proof

/-- The parameter `MODE` (R5, R11): fixed at elaboration, read by `hamming_corrector` only. -/
inductive Mode where
  | correct
  | detect
  deriving DecidableEq, Repr

/-- The one-bit encoding of `MODE` (R41): `CORRECT = 0`, `DETECT = 1`. -/
def Mode.bit : Mode → Bool
  | .correct => false
  | .detect  => true

/-- The default of `MODE` (R5, R11). -/
def Config.defaultMode : Mode := .correct

/-- The `k` of the instance in `State.reset`. DESIGN CHOICE (log 1): the spec leaves `k` open; 4 is the source's
only worked instance (95_test_vectors.md S-1). -/
def Config.resetK : Nat := 4

/-- The value on bit `b` of `err_pos` while `err_valid = 0`, in free draw number `draw` (R82; U2: "any value, a
free draw under no law"). No body: no proof can know it (log 3). -/
opaque Config.freeErrPosBit : (draw b : Nat) → Bool

/-- The propagation delay `T_PD` of the unit with the given operation identifier, in a unit of time of the
implementation's own (R121; U7). A parameter that no rule of the spec and no definition of the model reads (log 13). -/
opaque Config.propagationDelay : (unitId : Nat) → Nat

end Sys2Proof
end

