-- ==== Sys2Proof/Machine/Gf2.lean ====
section
/-! DEFINITION. Arithmetic over GF(2), the correspondence of vectors and integers, and the written forms of a vector
(00_scope.md section 3; 30_encoding.md R35 to R38; 40_code_construction.md R51, R52). -/

namespace Sys2Proof

/-- `zeros_L`. -/
def zeros (L : Nat) : Bits := List.replicate L false

/-- `onehot_n(j)`: a 1 at element `j` and 0 elsewhere. -/
def onehot (n j : Nat) : Bits := (List.range n).map (fun i => decide (i = j))

/-- `u ⊕ v` on vectors of equal length, element by element (R51). -/
def vxor (u v : Bits) : Bits := List.zipWith Bool.xor u v

/-- The XOR of all elements, 0 for none: their sum in GF(2) (R51). -/
def xorAll : Bits → Bool
  | [] => false
  | b :: bs => Bool.xor b (xorAll bs)

/-- `OR` of all elements, 0 for none. -/
def orAll : Bits → Bool
  | [] => false
  | b :: bs => b || orAll bs

/-- The GF(2) inner product `⊕_c (u[c] ∧ v[c])` (R52). -/
def dot (u v : Bits) : Bool := xorAll (List.zipWith Bool.and u v)

/-- `M · v` over GF(2): `w[r] = ⊕_c (M[r][c] ∧ v[c])` (R52). -/
def matVec (M : Matrix) (v : Bits) : Bits := M.map (fun row => dot row v)

/-- The Hamming weight `wt(v)`: the number of elements equal to 1. -/
def weight (v : Bits) : Nat := v.count true

/-- `col(M, c)`: column `c` as a vector, top row first. -/
def column (M : Matrix) (c : Nat) : Bits := M.map (fun row => bitAt row c)

/-- The transpose of a matrix with `cols` columns. -/
def transpose (cols : Nat) (M : Matrix) : Matrix := (List.range cols).map (column M)

/-- `I_m`. -/
def identity (m : Nat) : Matrix := (List.range m).map (onehot m)

/-- `[A | B]`: horizontal concatenation of matrices with the same number of rows. -/
def hcat (A B : Matrix) : Matrix := List.zipWith (· ++ ·) A B

/-- The port integer `Σ_i v[i]·2^i` (R35). -/
def portInt : Bits → Nat
  | [] => 0
  | b :: bs => b.toNat + 2 * portInt bs

/-- The length-`L` vector of the unsigned number `x` with bit 0 least significant: element `b` is
`floor(x / 2^b) mod 2` (R35, R39). -/
def ofPortInt (L x : Nat) : Bits := (List.range L).map (fun b => x / 2 ^ b % 2 == 1)

/-- `bin_p(x)`: most-significant bit first, element `r` is `floor(x / 2^(p−1−r)) mod 2` (R36). -/
def binP (p x : Nat) : Bits := (List.range p).map (fun r => x / 2 ^ (p - 1 - r) % 2 == 1)

/-- `colval(s) = Σ_r s[r]·2^(p−1−r)` for a vector of length `p` (R37): element 0 has weight `2^(p−1)`. -/
def colval : Bits → Nat
  | [] => 0
  | b :: bs => b.toNat * 2 ^ bs.length + colval bs

end Sys2Proof
end

