-- ==== Sys2Proof/Machine/Flags.lean ====
section
/-! DEFINITION. The four status outputs (10_state.md R18). None is stored, none is sticky; each is a function of the
values named here. -/

namespace Sys2Proof.Machine

/-- `syn_nonzero = OR_r syndrome[r]` (R78). -/
def synNonzeroFlag (syndrome : Bits) : Bool := orAll syndrome

/-- `err_valid = OR_j match[j]` (R81). -/
def errValidFlag (lines : Bits) : Bool := orAll lines

/-- `bit_error = (MODE = DETECT) ∧ nz` (R88). -/
def bitErrorFlag (mode : Mode) (nz : Bool) : Bool := decide (mode = .detect) && nz

/-- `no_match = (MODE = CORRECT) ∧ nz ∧ ¬valid` (R88). -/
def noMatchFlag (mode : Mode) (nz valid : Bool) : Bool := decide (mode = .correct) && nz && !valid

end Sys2Proof.Machine
end

