-- ==== Sys2Proof/Machine/CodeParams.lean ====
section
/-! DEFINITION. The constants of an instance, all functions of `k`: `p`, `n`, `W`, `P`, `G`, `H`
(00_scope.md R6; 10_state.md R10; 30_encoding.md R39; 40_code_construction.md R53 to R62). The layout is the
source's own and is not the textbook one (93_implementation_defined.md, last paragraph). -/

namespace Sys2Proof

/-- The least `i ≥ start` with `f i`, looking at no more than `fuel` candidates. The loop of R53. -/
def leastFrom (f : Nat → Bool) : (fuel start : Nat) → Nat
  | 0, start => start
  | fuel + 1, start => if f start then start else leastFrom f fuel (start + 1)

/-- `p = minimal_p(k)`: the least `p` with `2^p − p − 1 ≥ k` (R53). `k + 1` rounds of the loop always reach it. -/
def minimalP (k : Nat) : Nat := leastFrom (fun p => decide (k ≤ 2 ^ p - p - 1)) (k + 1) 0

/-- `n = k + p` (R54). -/
def codeLen (k : Nat) : Nat := k + minimalP k

/-- `W = ceil(log2(n))`: the least `W` with `2^W ≥ n` (R39). -/
def posWidth (k : Nat) : Nat := leastFrom (fun w => decide (codeLen k ≤ 2 ^ w)) (codeLen k) 0

/-- `cand(p)`: the integers `1 .. 2^p − 1` in ascending order whose `p`-bit rendering has a weight other than 1
(R55). -/
def cand (p : Nat) : List Nat :=
  (List.range (2 ^ p)).filter (fun x => decide (1 ≤ x) && decide (weight (binP p x) ≠ 1))

/-- `P`, k×p: the renderings of the first `k` candidates (R56). -/
def parityMatrix (k : Nat) : Matrix := ((cand (minimalP k)).take k).map (binP (minimalP k))

/-- `G = [ I_k | P ]ᵀ`, n×k (R58). -/
def genMatrix (k : Nat) : Matrix := transpose (codeLen k) (hcat (identity k) (parityMatrix k))

/-- `H = [ Pᵀ | I_p ]`, p×n (R59). -/
def checkMatrix (k : Nat) : Matrix :=
  hcat (transpose (minimalP k) (parityMatrix k)) (identity (minimalP k))

/-- `ColVals(k)`: the values of the columns of `H`, column 0 first (R60, R62). -/
def colVals (k : Nat) : List Nat := (List.range (codeLen k)).map (fun j => colval (column (checkMatrix k) j))

/-- The code is perfect when `k = 2^p − p − 1` (glossary; R62); otherwise it is shortened. -/
def perfect (k : Nat) : Bool := decide (k = 2 ^ minimalP k - minimalP k - 1)

end Sys2Proof
end

