-- ==== Sys2Proof/Syntax.lean ====
section
/-! DEFINITION. The syntax of the five operations (30_encoding.md R42; opcode_table.json). -/

namespace Sys2Proof

/-- One operation applied to its operand vector; one constructor per row of opcode_table.json. The operand's
length depends on the instance (R44) and is checked by `wellFormed`. -/
inductive Instr where
  /-- `ENC`, unit `hamming_encoder`: the message. -/
  | enc (msg : Bits)
  /-- `EXT`, unit `hamming_extract`: a word. -/
  | ext (cwIn : Bits)
  /-- `SYN`, unit `hamming_syndrome_calc`: a word. -/
  | syn (cwIn : Bits)
  /-- `POS`, unit `error_position_decoder`: a syndrome. -/
  | pos (syndrome : Bits)
  /-- `COR`, unit `hamming_corrector`: a word. -/
  | cor (cwIn : Bits)
  deriving DecidableEq, Repr

/-- The operand of an operation. -/
def Instr.operand : Instr → Bits
  | .enc v => v
  | .ext v => v
  | .syn v => v
  | .pos v => v
  | .cor v => v

end Sys2Proof
end

