-- ==== Sys2Proof/Machine/Operands.lean ====
section
/-! DEFINITION. Operand forms: each operation has one operand, a whole vector of exact length
(20_memory.md R27, R28; 30_encoding.md R44). -/

namespace Sys2Proof

/-- The operand length `L` of an operation in an instance of parameter `k` (R44). -/
def Instr.operandLen (k : Nat) : Instr → Nat
  | .enc _ => k
  | .ext _ => codeLen k
  | .syn _ => codeLen k
  | .pos _ => minimalP k
  | .cor _ => codeLen k

end Sys2Proof
end

