-- ==== Sys2Proof/WellFormed.lean ====
section
/-! DEFINITION. When an operation is well formed for an instance of parameter `k`: its operand has exactly the
length the operation states (20_memory.md R27; 30_encoding.md R44). No operand bit pattern is reserved (R45). -/

namespace Sys2Proof

/-- The operand has the exact length (R27, R44). -/
def wellFormed (k : Nat) (i : Instr) : Bool := decide (i.operand.length = i.operandLen k)

end Sys2Proof
end

