-- ==== Sys2Proof/Decode.lean ====
section
/-! DEFINITION. Descriptors: the decoder, total on any bits and rejecting by name, and the encoder
(30_encoding.md R42 to R46; 60_exceptions.md R98, R103). -/

namespace Sys2Proof

/-- A descriptor as its bits, `word[0]` first; its length is its width (R43). -/
abbrev Descriptor := Bits

/-- The descriptor of the given width whose bits are those of the number `word` (R43). -/
def descriptorOf (width word : Nat) : Descriptor := ofPortInt width word

/-- The operation identifier of each operation (R42). -/
def Instr.opId : Instr → Nat
  | .enc _ => 0
  | .ext _ => 1
  | .syn _ => 2
  | .pos _ => 3
  | .cor _ => 4

/-- The operation an identifier names, applied to an operand; none for the reserved identifiers (R42, R45). -/
def instrOfId (id : Nat) (v : Bits) : Option Instr :=
  match id with
  | 0 => some (.enc v)
  | 1 => some (.ext v)
  | 2 => some (.syn v)
  | 3 => some (.pos v)
  | 4 => some (.cor v)
  | _ => none

/-- Why the decoder refuses a descriptor. -/
inductive DecodeError where
  /-- "no such operation": the identifier is 5, 6 or 7 (R45). -/
  | noSuchOperation (id : Nat)
  /-- `ValidationError`: the width is not exactly `3 + L` (R44, R98). -/
  | validationError
  deriving DecidableEq, Repr

/-- The decoder of an instance of parameter `k`: the identifier is read first, then the length checked (R103),
and the operand taken bit for bit (R44). DEDUCED (log 9): a descriptor shorter than three bits is read as if its
missing identifier bits were 0, and its width is then wrong. -/
def decode (k : Nat) (d : Descriptor) : Except DecodeError Instr :=
  match instrOfId (portInt (d.take 3)) (d.drop 3) with
  | none => .error (.noSuchOperation (portInt (d.take 3)))
  | some i => if d.length = 3 + i.operandLen k then .ok i else .error .validationError

/-- The encoder: three identifier bits, bit 0 least significant, then the operand (R43). -/
def encode (i : Instr) : Descriptor := ofPortInt 3 i.opId ++ i.operand

/-- The descriptor that a word of the opcode table, numbered as the table numbers it, stands for in an instance of
parameter `k`. DESIGN CHOICE (log 10), in both directions: a word of MORE than `3 + L` bits stands for its low `3 + L`
bits where every bit above them is 0, else for all its `nbits` bits, which the decoder refuses; a word of FEWER than
`3 + L` bits stands for the descriptor of `3 + L` bits whose missing operand bits are 0. This is how the host's table
words are read and no descriptor of the spec: `decode` itself neither pads nor truncates (R27, R44, R98). -/
def tableDescriptor (k nbits w : Nat) : Descriptor :=
  match instrOfId (w % 8) [] with
  | none => descriptorOf nbits w
  | some i =>
    if w % 2 ^ nbits < 2 ^ (3 + i.operandLen k) then descriptorOf (3 + i.operandLen k) (w % 2 ^ nbits)
    else descriptorOf nbits w

/-- The operation the decoder of the reset instance reads from a word of the opcode table (log 10). -/
def decodeTableWord (nbits w : Nat) : Option Instr :=
  match decode Config.resetK (tableDescriptor Config.resetK nbits w) with
  | .ok i => some i
  | .error _ => none

end Sys2Proof
end

