-- ==== Sys2Proof/Machine/State.lean ====
section
/-! DEFINITION. The state of one instance and of the run the environment performs on it. The hardware itself stores
nothing (10_state.md R9, R24): what stands here is the constants of the instance, the values the environment holds on
the input ports, and the run of 70_reset_and_hazards.md R126. Output ports are functions of this state
(Machine/Ports.lean), never fields (R20, R22; log 7). -/

namespace Sys2Proof.Machine

/-- The failures of the spec (R96). -/
inductive Failure where
  | configurationError
  | validationError
  | bitError
  | noColumnMatch
  deriving DecidableEq, Repr

/-- The value an evaluation gives back when its outcome is `ok` (R8, R48): the unit's outputs. -/
inductive Value where
  /-- `ENC`: `cw`. -/
  | codeword (cw : Bits)
  /-- `EXT`: `msg_out`. -/
  | message (msg : Bits)
  /-- `SYN`: `syndrome` and `syn_nonzero`. -/
  | syndrome (s : Bits) (nonzero : Bool)
  /-- `POS`: `match`, `err_valid` and `err_pos`. -/
  | position (lines : Bits) (errValid : Bool) (errPos : Bits)
  /-- `COR`: `cw_out` of an evaluation that did not fail. -/
  | corrected (cw : Bits)
  deriving DecidableEq, Repr

/-- The outcome of one operation (R8). -/
inductive OpOutcome where
  | ok (v : Value)
  | fail (f : Failure)
  deriving DecidableEq, Repr

/-- The reasons a run can be marked as faulted (R126). No step of this model stops with one: the machine goes on
after every failure (R106; log 4), and the mark stands in `State.runFault`. -/
inductive Fault where
  /-- Recorded by `COR` in `CORRECT` mode on a nonzero syndrome equal to no column of `H` (R93, R100; U1). Safe: the
  mark stands whatever follows and whatever the environment expected; `goodRun` does not read it, `safeRun` does
  (log 19). -/
  | noColumnMatch
  deriving DecidableEq, Repr

/-- The reasons a step gives no meaning to what the environment asks. -/
inductive Refusal where
  /-- Raised by the dispatcher for an operation without a meaning; no operation is without one. Safe. -/
  | notModelled (mnemonic : String)
  /-- `ValidationError`, raised by the decoder and by every operation on an operand of the wrong length (R44, R98;
  U6; log 11). Safe: nothing is evaluated. -/
  | validationError
  /-- Raised by the decoder for the reserved identifiers 5 to 7 (R45; U5; log 11). Safe: nothing is evaluated. -/
  | noSuchOperation (id : Nat)
  /-- Raised by every operation in a state with `k < 1`, which elaboration never builds (R63; U3; log 12). Safe: no
  hardware exists there. -/
  | noHardware
  deriving DecidableEq, Repr

/-- One instance, what the environment holds on its input ports, and the environment's run. -/
structure State where
  /-- The constant `k` (R4, R10). -/
  k : Nat
  /-- The constant `MODE` (R5, R11). -/
  mode : Mode
  /-- `hamming_encoder.msg` (R13). -/
  encMsg : Bits
  /-- `hamming_extract.cw_in` (R14). -/
  extCwIn : Bits
  /-- `hamming_syndrome_calc.cw_in` (R15). -/
  synCwIn : Bits
  /-- `error_position_decoder.syndrome` (R16). -/
  posSyndrome : Bits
  /-- `hamming_corrector.cw_in` (R17). -/
  corCwIn : Bits
  /-- The operations the environment has still to apply, as descriptors (R43, R126; log 5). -/
  pending : List Descriptor
  /-- The outcomes so far, oldest first: the end state of the run (R126; log 17). -/
  outcomes : List OpOutcome
  /-- The run's sticky fault mark (R106, R126; log 4). -/
  runFault : Option Fault
  /-- The MODEL's own counter: the free draw that stands on `err_pos` while `err_valid = 0` (R82; log 3). -/
  posDraw : Nat
  deriving DecidableEq, Repr

/-- An instance just elaborated from `(k, MODE)`, before its first evaluation (R20, R113). DESIGN CHOICE (log 2): the
environment holds zeros on every input port. DESIGN CHOICE (log 3): the first free draw is number 0. -/
def State.fresh (k : Nat) (mode : Mode) : State where
  k := k
  mode := mode
  encMsg := zeros k
  extCwIn := zeros (codeLen k)
  synCwIn := zeros (codeLen k)
  posSyndrome := zeros (minimalP k)
  corCwIn := zeros (codeLen k)
  pending := []
  outcomes := []
  runFault := none
  posDraw := 0

/-- The machine right after "reset", read as R20 reads it: from the moment the hardware exists. `MODE` is its default
(R11); `k` is the model's choice (log 1). -/
def State.reset : State := State.fresh Config.resetK Config.defaultMode

end Sys2Proof.Machine
end

