-- ==== Sys2Proof/Machine/Ops.lean ====
section
/-! DEFINITION. The operations every meaning shares: checking an operand, recording an `ok` outcome, raising a failure,
and elaborating an instance (20_memory.md R27; 00_scope.md R8; 60_exceptions.md R96, R104, R106;
40_code_construction.md R63). -/

namespace Sys2Proof.Machine

/-- An evaluation on the operand `v`, which must have exactly `len` elements (R27, R98); no operation has a meaning
where no hardware exists (R63; log 12). -/
def evaluate (len : Nat) (v : Bits) (s result : State) : Host.Outcome State Fault Refusal :=
  if s.k = 0 then .refused .noHardware
  else if v.length = len then .next result
  else .refused .validationError

/-- The environment places a message on `hamming_encoder.msg` (R13). -/
def State.driveEnc (s : State) (v : Bits) : State := { s with encMsg := v }

/-- The environment places a word on `hamming_extract.cw_in` (R14). -/
def State.driveExt (s : State) (v : Bits) : State := { s with extCwIn := v }

/-- The environment places a word on `hamming_syndrome_calc.cw_in` (R15). -/
def State.driveSyn (s : State) (v : Bits) : State := { s with synCwIn := v }

/-- The environment places a syndrome on `error_position_decoder.syndrome` (R16). The evaluation takes the next free
draw for `err_pos` (R82; log 3). -/
def State.drivePos (s : State) (v : Bits) : State := { s with posSyndrome := v, posDraw := s.posDraw + 1 }

/-- The environment places a word on `hamming_corrector.cw_in` (R17). -/
def State.driveCor (s : State) (v : Bits) : State := { s with corCwIn := v }

/-- The outcome of the evaluation is `ok(v)` (R8): it joins the run's list (R126). -/
def State.record (s : State) (v : Value) : State := { s with outcomes := s.outcomes ++ [.ok v] }

/-- The mark a failure leaves on the run: `NoColumnMatch` always marks it, no other failure does, and a mark is never
taken back (R126; log 4). -/
def Failure.mark : Failure → Option Fault → Option Fault
  | .noColumnMatch, _ => some .noColumnMatch
  | .configurationError, m => m
  | .validationError, m => m
  | .bitError, m => m

/-- Raising a failure (R104): the outcome is `fail(f)` with no value. Nothing is saved, no mode changes and control
goes nowhere; the failure's output port follows from the input the unit still holds (Machine/Ports.lean). There is no
return from a failure, since nothing is stored that a return could restore (R106). -/
def State.fail (s : State) (f : Failure) : State :=
  { s with outcomes := s.outcomes ++ [.fail f], runFault := f.mark s.runFault }

/-- The code of a failure (R96): a label of the spec that stands on no port. -/
def Failure.code : Failure → Nat
  | .configurationError => 1
  | .validationError => 2
  | .bitError => 3
  | .noColumnMatch => 4

/-- The mode a spelling in a script or a constructor's argument names: `CORRECT` or `DETECT` in upper case, none for
any other (R41, R97). -/
def modeOfText (t : String) : Option Mode :=
  if t = "CORRECT" then some .correct else if t = "DETECT" then some .detect else none

/-- Why no hardware is built (R63). -/
inductive ElabRefusal where
  /-- `ConfigurationError` (R97): an unknown mode, or the construction error of R57. -/
  | configurationError
  /-- `k < 1`, refused under no name of the source (R63; U3). -/
  | kBelowOne
  deriving DecidableEq, Repr

/-- Elaboration from `(k, MODE)` in the order of R63: the mode before anything else, then `k`, then the size check of
R57; no mode text means the default (R5). -/
def elaborate (k : Int) (modeText : Option String) : Except ElabRefusal State :=
  match (match modeText with
         | none => some Config.defaultMode
         | some t => modeOfText t) with
  | none => .error .configurationError
  | some m =>
    if k < 1 then .error .kBelowOne
    else if (cand (minimalP k.toNat)).length < k.toNat then .error .configurationError
    else .ok (State.fresh k.toNat m)

end Sys2Proof.Machine
end

