-- ==== Sys2Proof/Machine/Position.lean ====
section
/-! DEFINITION. `error_position_decoder`, operation POS (44_error_position.md R79 to R86). -/

namespace Sys2Proof.Machine

/-- The match lines: `match[j] = AND_r ¬(syndrome[r] ⊕ H[r][j])` (R80). -/
def matchLines (k : Nat) (s : Bits) : Bits :=
  (List.range (codeLen k)).map fun j =>
    (List.range (minimalP k)).all fun r => !(Bool.xor (bitAt s r) (entry (checkMatrix k) r j))

/-- The abstract result `some(j)` or `none` (R48, R79): the index of the matching column. The scan ascends; at most one
column matches, so the order does not matter (R86). -/
def positionOf (k : Nat) (s : Bits) : Option Nat := (matchLines k s).findIdx? id

/-- `err_pos` (R82): the index of the matching column as a `W`-bit unsigned number (R39); without a match the `W` bits
of free draw `draw` (log 3). -/
def errPosOut (k draw : Nat) (s : Bits) : Bits :=
  match positionOf k s with
  | some j => ofPortInt (posWidth k) j
  | none => (List.range (posWidth k)).map (Config.freeErrPosBit draw)

/-- The index of `x` among the candidates, for `x ≥ 3` that is not a power of two (R65). -/
def candIndex (x : Nat) : Nat := x - Nat.log2 x - 2

/-- The closed form of the lookup on `x = colval(syndrome)` (R85). The definition is `positionOf`; this is the function
a look-up-table implementation holds (R26). -/
def lutEntry (k x : Nat) : Option Nat :=
  if x = 0 then none
  else if x = 2 ^ Nat.log2 x then some (k + (minimalP k - 1 - Nat.log2 x))
  else if candIndex x < k then some (candIndex x)
  else none

/-- The look-up table of R26 (b): entry `x` for every `x` from 0 to `2^p − 1`. -/
def lutTable (k : Nat) : List (Option Nat) := (List.range (2 ^ minimalP k)).map (lutEntry k)

/-- `POS`: the environment places the syndrome on `syndrome`; the outcome is always `ok`, `none` being a result (R79).
Each evaluation takes the next free draw (R82; log 3). -/
def execPos (syndrome : Bits) (s : State) : Host.Outcome State Fault Refusal :=
  evaluate (minimalP s.k) syndrome s
    ((s.drivePos syndrome).record
      (.position (matchLines s.k syndrome) (errValidFlag (matchLines s.k syndrome))
        (errPosOut s.k (s.posDraw + 1) syndrome)))

end Sys2Proof.Machine
end

