-- ==== Sys2Proof/Machine/Syndrome.lean ====
section
/-! DEFINITION. `hamming_syndrome_calc`, operation SYN (43_syndrome.md R74, R78). -/

namespace Sys2Proof.Machine

/-- `s = H · cw_in` (R74). -/
def syndromeOf (k : Nat) (cwIn : Bits) : Bits := matVec (checkMatrix k) cwIn

/-- `SYN`: the environment places the word on `cw_in`; the outcome is always `ok(s, nz)`, a nonzero syndrome being a
result and no failure (R74). -/
def execSyn (cwIn : Bits) (s : State) : Host.Outcome State Fault Refusal :=
  evaluate (codeLen s.k) cwIn s
    ((s.driveSyn cwIn).record (.syndrome (syndromeOf s.k cwIn) (synNonzeroFlag (syndromeOf s.k cwIn))))

end Sys2Proof.Machine
end

