-- ==== Sys2Proof/Machine/Corrector.lean ====
section
/-! DEFINITION. `hamming_corrector`, operation COR (45_corrector.md R87, R88). -/

namespace Sys2Proof.Machine

/-- `COR` as the abstract outcome of R87: a word, or a failure. -/
def checkCorrect (k : Nat) (mode : Mode) (cwIn : Bits) : Except Failure Bits :=
  let s := syndromeOf k cwIn
  if synNonzeroFlag s = false then .ok cwIn
  else match mode with
    | .detect => .error .bitError
    | .correct =>
      match positionOf k s with
      | some j => .ok (vxor cwIn (onehot (codeLen k) j))
      | none => .error .noColumnMatch

/-- The port `cw_out` (R88): `cw_in ⊕ match` in `CORRECT` mode, `cw_in` in `DETECT` mode. -/
def cwOutPort (k : Nat) (mode : Mode) (cwIn : Bits) : Bits :=
  match mode with
  | .correct => vxor cwIn (matchLines k (syndromeOf k cwIn))
  | .detect => cwIn

/-- The port `bit_error` (R88). -/
def bitErrorPort (k : Nat) (mode : Mode) (cwIn : Bits) : Bool :=
  bitErrorFlag mode (synNonzeroFlag (syndromeOf k cwIn))

/-- The port `no_match` (R88). -/
def noMatchPort (k : Nat) (mode : Mode) (cwIn : Bits) : Bool :=
  noMatchFlag mode (synNonzeroFlag (syndromeOf k cwIn)) (errValidFlag (matchLines k (syndromeOf k cwIn)))

/-- What an evaluation of `COR` leaves: the word stays on `cw_in` (R21) and the outcome joins the run. -/
def State.correctorOutcome (s : State) : Except Failure Bits → State
  | .ok w => s.record (.corrected w)
  | .error f => s.fail f

/-- `COR`: the environment places the word on `cw_in`; the outcome is the corrected word, `fail(BitError)` or
`fail(NoColumnMatch)`, and the machine goes on in every case (R87, R104, R106; log 4). -/
def execCor (cwIn : Bits) (s : State) : Host.Outcome State Fault Refusal :=
  evaluate (codeLen s.k) cwIn s
    ((s.driveCor cwIn).correctorOutcome (checkCorrect s.k s.mode cwIn))

end Sys2Proof.Machine
end

