-- ==== Sys2Proof/Machine/Encoder.lean ====
section
/-! DEFINITION. `hamming_encoder`, operation ENC (41_encoder.md R67). -/

namespace Sys2Proof.Machine

/-- `cw = G · msg` (R67). -/
def encodeWord (k : Nat) (msg : Bits) : Bits := matVec (genMatrix k) msg

/-- `ENC`: the environment places the message on `msg`; the outcome is always `ok(cw)` (R67). -/
def execEnc (msg : Bits) (s : State) : Host.Outcome State Fault Refusal :=
  evaluate s.k msg s ((s.driveEnc msg).record (.codeword (encodeWord s.k msg)))

end Sys2Proof.Machine
end

