-- ==== Sys2Proof/Machine/Extract.lean ====
section
/-! DEFINITION. `hamming_extract`, operation EXT (42_extract.md R71). -/

namespace Sys2Proof.Machine

/-- `msg_out[i] = cw_in[i]` for `i < k`: the parity bits are ignored, nothing is corrected (R71). -/
def extractMessage (k : Nat) (cwIn : Bits) : Bits := cwIn.take k

/-- `EXT`: the environment places the word on `cw_in`; the outcome is always `ok(msg_out)` (R71). -/
def execExt (cwIn : Bits) (s : State) : Host.Outcome State Fault Refusal :=
  evaluate (codeLen s.k) cwIn s ((s.driveExt cwIn).record (.message (extractMessage s.k cwIn)))

end Sys2Proof.Machine
end

