-- ==== Sys2Proof/Machine/Ports.lean ====
section
/-! DEFINITION. The output ports (10_state.md R13 to R17): every one is its unit's function of the value now on the
unit's input port and of the constants, from the first moment, never a held value (R9, R20, R22; log 7). -/

namespace Sys2Proof.Machine

/-- `hamming_encoder.cw` (R13). -/
def State.cw (s : State) : Bits := encodeWord s.k s.encMsg

/-- `hamming_extract.msg_out` (R14). -/
def State.msgOut (s : State) : Bits := extractMessage s.k s.extCwIn

/-- `hamming_syndrome_calc.syndrome` (R15). -/
def State.syndrome (s : State) : Bits := syndromeOf s.k s.synCwIn

/-- `hamming_syndrome_calc.syn_nonzero` (R15). -/
def State.synNonzero (s : State) : Bool := synNonzeroFlag s.syndrome

/-- `error_position_decoder.match` (R16). -/
def State.posMatch (s : State) : Bits := matchLines s.k s.posSyndrome

/-- `error_position_decoder.err_valid` (R16). -/
def State.errValid (s : State) : Bool := errValidFlag s.posMatch

/-- `error_position_decoder.err_pos` (R16). -/
def State.errPos (s : State) : Bits := errPosOut s.k s.posDraw s.posSyndrome

/-- `hamming_corrector.cw_out` (R17). -/
def State.cwOut (s : State) : Bits := cwOutPort s.k s.mode s.corCwIn

/-- `hamming_corrector.bit_error` (R17). -/
def State.bitError (s : State) : Bool := bitErrorPort s.k s.mode s.corCwIn

/-- `hamming_corrector.no_match` (R17). -/
def State.noMatch (s : State) : Bool := noMatchPort s.k s.mode s.corCwIn

end Sys2Proof.Machine
end

