-- ==== Sys2Proof/Machine/Dispatch.lean ====
section
/-! DEFINITION. One arm per operation of opcode_table.json (30_encoding.md R42). -/

namespace Sys2Proof.Machine

def exec (i : Instr) (s : State) : Host.Outcome State Fault Refusal :=
  match i with
  | .enc v => Sys2Proof.Machine.execEnc v s
  | .ext v => Sys2Proof.Machine.execExt v s
  | .syn v => Sys2Proof.Machine.execSyn v s
  | .pos v => Sys2Proof.Machine.execPos v s
  | .cor v => Sys2Proof.Machine.execCor v s

end Sys2Proof.Machine
end

