-- ==== Sys2Proof/Machine/Step.lean ====
section
/-! DEFINITION. One step: the environment applies its next operation (10_state.md R23; 70_reset_and_hazards.md R125,
R126). The hardware has no program counter and no sequencing of its own (R19). -/

namespace Sys2Proof.Machine

/-- How a descriptor that the decoder refuses ends the step (R44, R45; log 11). -/
def refusalOf : DecodeError → Refusal
  | .noSuchOperation id => .noSuchOperation id
  | .validationError => .validationError

/-- The environment's next operation is decoded and applied. With none left the units go on driving their outputs from
the inputs they have and nothing changes (R126; log 5). -/
def step (s : State) : Host.Outcome State Fault Refusal :=
  match s.pending with
  | [] => .next s
  | d :: rest =>
    match decode s.k d with
    | .error e => .refused (refusalOf e)
    | .ok i => exec i { s with pending := rest }

/-- `s` with the descriptor of a word of the opcode table as the environment's next operation (log 5, log 10). -/
def State.withFetchWord (s : State) (nbits w : Nat) : State :=
  { s with pending := tableDescriptor s.k nbits w :: s.pending }

end Sys2Proof.Machine
end

