-- ==== Sys2Proof/Machine/Script.lean ====
section
/-! DEFINITION. The test bench's scripts: directives, pseudo-operations and the run they perform on an instance
(30_encoding.md R47; 70_reset_and_hazards.md R126). Only the operations reach the hardware; names, `FLIP` and the
expectations are the bench's own. The choices R47 and R126 leave open are log 14, 15, 19 to 23. -/

namespace Sys2Proof.Machine

/-- A `<vec>` or `<value>`: a name or a literal (R47 says so of a `<vec>`; that a `<value>` may be a name is a DESIGN
CHOICE, log 15). -/
inductive Arg where
  | name (x : String)
  | lit (v : Bits)
  deriving DecidableEq, Repr

/-- The five operation mnemonics of a script line (R42, R47). -/
inductive OpName where
  | enc
  | ext
  | syn
  | pos
  | cor
  deriving DecidableEq, Repr

/-- The operation a mnemonic names, applied to an operand (R42). -/
def OpName.instr : OpName → Bits → Instr
  | .enc => .enc
  | .ext => .ext
  | .syn => .syn
  | .pos => .pos
  | .cor => .cor

/-- A script line (R47). -/
inductive Line where
  /-- `.code k=… [mode=…]`: elaborate an instance. -/
  | code (k : Int) (mode : Option String)
  /-- `<name> = <OP> <vec>`. -/
  | op (x : String) (o : OpName) (a : Arg)
  /-- `<name> = FLIP <vec>, <j>[, <j> …]`. -/
  | flip (x : String) (a : Arg) (js : List Nat)
  /-- `<name> = RECOVER <vec>`. -/
  | recover (x : String) (a : Arg)
  /-- `.expect <name> == <value>`. -/
  | expect (x : String) (a : Arg)
  /-- `.expect fail <Failure>`. -/
  | expectFail (f : Failure)
  deriving DecidableEq, Repr

/-- The test bench: its instance, its names, and what it has noted of the run. -/
structure Bench where
  /-- The instance now elaborated, if any (R115). -/
  inst : Option State
  /-- The names bound so far. -/
  names : List (String × Bits)
  /-- The failure of the preceding line that no `.expect fail` has met yet. -/
  lastFailure : Option Failure
  /-- Some failure was not expected (R126). -/
  unexpected : Bool
  /-- Some `.expect` was not met, or some line has no meaning (R47; log 14, log 23). -/
  wrong : Bool
  /-- Some outcome was `fail(NoColumnMatch)` (R126). -/
  faulted : Bool
  deriving DecidableEq, Repr

/-- The bench before its first line. -/
def Bench.start : Bench :=
  { inst := none, names := [], lastFailure := none, unexpected := false, wrong := false, faulted := false }

/-- The test-bench XOR of `onehot(j)` for each listed `j`; a `j` listed twice is restored (R47). -/
def flipBits (v : Bits) (js : List Nat) : Bits := js.foldl (fun w j => vxor w (onehot w.length j)) v

/-- What one operation line does to the instance: an `ok` value, a failure, or no meaning. -/
inductive LineResult where
  | ok (s : State) (v : Value)
  | fail (s : State) (f : Failure)
  | meaningless
  deriving DecidableEq, Repr

/-- One evaluation on the bench's instance and its outcome. DESIGN CHOICE (log 21): on an operand of the wrong length,
which `exec` refuses (R98), the line's outcome is the failure `ValidationError`, which the bench can expect; the
instance is left as it was and no entry joins its outcomes. -/
def evaluateOn (s : State) (i : Instr) : LineResult :=
  match exec i s with
  | .next t =>
    match t.outcomes.getLast? with
    | some (.ok v) => .ok t v
    | some (.fail f) => .fail t f
    | none => .meaningless
  | .refused .validationError => .fail s .validationError
  | .refused _ => .meaningless
  | .fault _ => .meaningless

/-- `RECOVER`: `COR`, then `EXT` on its result; it fails when `COR` fails and then yields no message (R47, R95). DESIGN
CHOICE (log 22): the `t` of R47's expansion is the expansion's own and no name of the script; the corrected word is handed
from `COR` to `EXT`, and a name `t` of the script keeps what it stood for. -/
def recoverOn (s : State) (v : Bits) : LineResult :=
  match evaluateOn s (.cor v) with
  | .ok t (.corrected w) => evaluateOn t (.ext w)
  | .ok _ _ => .meaningless
  | .fail t f => .fail t f
  | .meaningless => .meaningless

/-- The names a result defines (R47): `SYN` also `.nonzero`; `POS` `.match`, `.valid` and `.pos`. DESIGN CHOICE
(log 20): `.pos` is bound to the `W`-bit vector on the port `err_pos`, element 0 its least significant bit (R34, R39),
since R47's values are vectors; in a script of `k = 4` position 2 is written `010`. -/
def namesOf (x : String) : Value → List (String × Bits)
  | .codeword w => [(x, w)]
  | .message m => [(x, m)]
  | .syndrome s nz => [(x, s), (x ++ ".nonzero", [nz])]
  | .position lines valid pos => [(x ++ ".match", lines), (x ++ ".valid", [valid]), (x ++ ".pos", pos)]
  | .corrected w => [(x, w)]

/-- The vector a name is bound to. -/
def Bench.lookup (b : Bench) (x : String) : Option Bits := b.names.lookup x

/-- The vector an argument stands for. -/
def Bench.value (b : Bench) : Arg → Option Bits
  | .name x => b.lookup x
  | .lit v => some v

/-- Whether a bound name is `x` or one of the names a result of `x` defines. -/
def belongsTo (x y : String) : Bool :=
  decide (y = x) || decide (y ∈ [x ++ ".nonzero", x ++ ".match", x ++ ".valid", x ++ ".pos"])

/-- Forget `x` and everything a result of `x` had defined. DESIGN CHOICE (log 14): a name defined again keeps no
`.nonzero`, `.match`, `.valid` or `.pos` of its earlier result. -/
def Bench.unbind (b : Bench) (x : String) : Bench :=
  { b with names := b.names.filter (fun e => !belongsTo x e.1) }

/-- Bind the names of a result of `x`, in place of what `x` had defined before. -/
def Bench.bind (b : Bench) (x : String) (vs : List (String × Bits)) : Bench :=
  { b.unbind x with names := vs ++ (b.unbind x).names }

/-- A line whose outcome is `fail(f)`: its name is left unbound (R47), and `NoColumnMatch` marks the run (R126). DESIGN
CHOICE (log 21): `ValidationError`, from an operand of the wrong length, does not mark it. -/
def Bench.failed (b : Bench) (x : String) (f : Failure) : Bench :=
  { b.unbind x with lastFailure := some f, faulted := b.faulted || (f.mark none).isSome }

/-- A line with no meaning, or an expectation that is not met. -/
def Bench.markWrong (b : Bench) : Bench := { b with wrong := true }

/-- A failure of the preceding line that this line does not expect is unexpected (R126). -/
def Bench.settle (b : Bench) : Bench :=
  { b with lastFailure := none, unexpected := b.unexpected || b.lastFailure.isSome }

/-- What a line's result leaves on the bench. -/
def Bench.absorb (b : Bench) (x : String) : LineResult → Bench
  | .ok s v => { b.bind x (namesOf x v) with inst := some s }
  | .fail s f => { b.failed x f with inst := some s }
  | .meaningless => b.markWrong

/-- The argument's vector and the instance, handed to a line that needs both; without either the line has no
meaning. -/
def Bench.onInstance (b : Bench) (x : String) (a : Arg) (run : State → Bits → LineResult) : Bench :=
  match b.inst, b.value a with
  | some s, some v => b.absorb x (run s v)
  | _, _ => b.markWrong

/-- One script line (R47). DESIGN CHOICE (log 14): a `.code` line, whether it elaborates another instance or is refused,
drops the instance before it, and with it that instance's list of outcomes; the names and the fault mark stay. DESIGN
CHOICE (log 21): a `.code` refused with `ConfigurationError` is a failure that `.expect fail` can meet, and it does not
mark the run. DESIGN CHOICE (log 23): an `.expect fail` that is not met is wrong, as an `.expect` with another value is. -/
def Bench.line (b : Bench) : Line → Bench
  | .code k mode =>
    match elaborate k mode with
    | .ok s => { b.settle with inst := some s }
    | .error .configurationError => { b.settle with inst := none, lastFailure := some .configurationError }
    | .error .kBelowOne => { b.settle.markWrong with inst := none }
  | .op x o a => b.settle.onInstance x a (fun s v => evaluateOn s (o.instr v))
  | .flip x a js =>
    match b.settle.value a with
    | some v => if js.all (fun j => decide (j < v.length)) then b.settle.bind x [(x, flipBits v js)] else b.settle.markWrong
    | none => b.settle.markWrong
  | .recover x a => b.settle.onInstance x a recoverOn
  | .expect x a =>
    match b.lookup x, b.value a with
    | some v, some w => if v = w then b.settle else b.settle.markWrong
    | _, _ => b.settle.markWrong
  | .expectFail f => if b.lastFailure = some f then { b with lastFailure := none } else b.settle.markWrong

/-- A run of a script (R126): its lines in order, after which a failure not yet expected is unexpected. -/
def runScript (ls : List Line) : Bench := (ls.foldl Bench.line Bench.start).settle

/-- A good run of a script: every failure was expected (R126), and no line was wrong. DESIGN CHOICE (log 23): R126 asks
for the first only; that an expectation not met, or a line with no meaning (log 14), keeps the run from being good is the
model's. DESIGN CHOICE (log 19): an expected `NoColumnMatch` does not keep a script from being good in this sense; the
fault mark is read apart from it, by `Bench.safe`. -/
def Bench.good (b : Bench) : Bool := !b.unexpected && !b.wrong

/-- A good run of a script that is not marked as faulted (R126; U1; log 19). -/
def Bench.safe (b : Bench) : Bool := b.good && !b.faulted

end Sys2Proof.Machine
end

