-- ==== Sys2Proof/Machine/ScriptText.lean ====
section
/-! DEFINITION. The concrete text of a script (30_encoding.md R35, R47): comments, list and string form of vectors, and
the lines of Machine/Script.lean. The lexical points R47 leaves open are log 15. -/

namespace Sys2Proof.Machine

inductive Token where
  | word (w : String)
  | eq
  | comma
  | lbracket
  | rbracket
  deriving DecidableEq, Repr

/-- The one-character tokens. -/
def punctOf (c : Char) : Option Token :=
  if c = '=' then some .eq
  else if c = ',' then some .comma
  else if c = '[' then some .lbracket
  else if c = ']' then some .rbracket
  else none

/-- The word collected so far, if any. -/
def flushWord (w : List Char) : List Token := if w = [] then [] else [.word (String.ofList w)]

/-- The tokens of one line, `w` being the word collected so far; `;` starts a comment (R47). -/
def lexLine : List Char → (w : List Char) → List Token
  | [], w => flushWord w
  | c :: cs, w =>
    if c = ';' then flushWord w
    else if c.isWhitespace then flushWord w ++ lexLine cs []
    else
      match punctOf c with
      | some t => flushWord w ++ t :: lexLine cs []
      | none => lexLine cs (w ++ [c])

/-- The lines of a text. -/
def splitLines : List Char → (current : List Char) → List (List Char)
  | [], cur => [cur]
  | c :: cs, cur => if c = '\n' then cur :: splitLines cs [] else splitLines cs (cur ++ [c])

/-- The number a word of decimal digits writes. -/
def natOfWord (w : String) : Option Nat :=
  if w.toList ≠ [] ∧ w.toList.all Char.isDigit then
    some (w.toList.foldl (fun n c => 10 * n + (c.toNat - '0'.toNat)) 0)
  else none

/-- The integer a word writes: decimal digits after an optional minus sign. -/
def intOfWord (w : String) : Option Int :=
  match w.toList with
  | '-' :: cs => (natOfWord (String.ofList cs)).map (fun n => -(n : Int))
  | _ => (natOfWord w).map (fun n => (n : Int))

/-- An identifier: a letter or underscore, then letters, digits and underscores; with `dots`, also the dots of a name a
result defines, as in `s.nonzero`. -/
def isName (dots : Bool) (w : String) : Bool :=
  match w.toList with
  | [] => false
  | c :: cs =>
    (c.isAlpha || decide (c = '_')) &&
      cs.all (fun d => d.isAlphanum || decide (d = '_') || (dots && decide (d = '.')))

/-- A vector in string form, element 0 leftmost (R35). -/
def bitsOfWord (w : String) : Option Bits :=
  if w.toList ≠ [] ∧ w.toList.all (fun c => decide (c = '0') || decide (c = '1')) then
    some (w.toList.map (fun c => decide (c = '1')))
  else none

/-- The string form of a vector (R35). -/
def stringForm (v : Bits) : String := String.ofList (v.map (fun b => if b then '1' else '0'))

/-- The list form of a vector, the source's own form (R35). -/
def listText (v : Bits) : String :=
  "[" ++ String.intercalate "," (v.map (fun b => if b then "1" else "0")) ++ "]"

/-- The hexadecimal digits of a number, most significant first, no more than `fuel` of them. -/
def hexDigits : (fuel x : Nat) → List Char
  | 0, _ => []
  | fuel + 1, x => (if x / 16 = 0 then [] else hexDigits fuel (x / 16)) ++ [Nat.digitChar (x % 16)]

/-- The port integer of a vector in hexadecimal with the prefix `0x` (R35). -/
def hexForm (v : Bits) : String := "0x" ++ String.ofList (hexDigits (v.length + 1) (portInt v))

/-- The name of a failure (R96). -/
def Failure.text : Failure → String
  | .configurationError => "ConfigurationError"
  | .validationError => "ValidationError"
  | .bitError => "BitError"
  | .noColumnMatch => "NoColumnMatch"

/-- The abstract result of `POS`: `some(j)` or `none` (R48). -/
def positionResult (lines : Bits) : Option Nat := lines.findIdx? id

/-- `syn_nonzero` as R48 gives it beside the syndrome; the words and the comma are the model's (log 15), after the
comments of the spec's programs. -/
def besideNonzero (nz : Bool) : String := ", syn_nonzero = " ++ stringForm [nz]

/-- The result notation of an outcome (R48). -/
def OpOutcome.text : OpOutcome → String
  | .ok (.codeword w) => "ok(" ++ stringForm w ++ ")"
  | .ok (.message m) => "ok(" ++ stringForm m ++ ")"
  | .ok (.syndrome s nz) => "ok(" ++ stringForm s ++ ")" ++ besideNonzero nz
  | .ok (.position lines _ _) =>
    match positionResult lines with
    | some j => "some(" ++ Nat.repr j ++ ")"
    | none => "none"
  | .ok (.corrected w) => "ok(" ++ stringForm w ++ ")"
  | .fail f => "fail(" ++ f.text ++ ")"

/-- A vector in list form after its opening bracket, element 0 first (R35). -/
def listForm : List Token → Option (Bits × List Token)
  | .word w :: .comma :: ts =>
    match bitsOfWord w, listForm ts with
    | some [b], some (bs, rest) => some (b :: bs, rest)
    | _, _ => none
  | .word w :: .rbracket :: ts =>
    match bitsOfWord w with
    | some [b] => some ([b], ts)
    | _ => none
  | _ => none

/-- A `<vec>` or `<value>` at the head of the tokens. -/
def parseArg : List Token → Option (Arg × List Token)
  | .word w :: ts =>
    match bitsOfWord w with
    | some v => some (.lit v, ts)
    | none => if isName true w then some (.name w, ts) else none
  | .lbracket :: ts => (listForm ts).map (fun r => (.lit r.1, r.2))
  | _ => none

/-- An argument that is all of the tokens. -/
def parseWholeArg (ts : List Token) : Option Arg :=
  match parseArg ts with
  | some (a, []) => some a
  | _ => none

/-- The positions of a `FLIP`, each after a comma. -/
def parsePositions : List Token → Option (List Nat)
  | [] => some []
  | .comma :: .word w :: ts =>
    match natOfWord w, parsePositions ts with
    | some j, some js => some (j :: js)
    | _, _ => none
  | _ => none

/-- The failure a name in a script stands for (R96; `UncorrectableError` is a synonym, 90_conflicts.md C5). -/
def failureOfWord (w : String) : Option Failure :=
  if w = "ConfigurationError" then some .configurationError
  else if w = "ValidationError" then some .validationError
  else if w = "BitError" then some .bitError
  else if w = "UncorrectableError" then some .bitError
  else if w = "NoColumnMatch" then some .noColumnMatch
  else none

/-- The operation a mnemonic in a script stands for (R42). -/
def opOfWord (w : String) : Option OpName :=
  if w = "ENC" then some .enc
  else if w = "EXT" then some .ext
  else if w = "SYN" then some .syn
  else if w = "POS" then some .pos
  else if w = "COR" then some .cor
  else none

/-- The right side of a line `<name> = …`, its first word apart. -/
def parseDefinition (x w : String) (ts : List Token) : Option Line :=
  if w = "FLIP" then
    match parseArg ts with
    | some (a, rest) =>
      match parsePositions rest with
      | some (j :: js) => some (.flip x a (j :: js))
      | _ => none
    | none => none
  else if w = "RECOVER" then (parseWholeArg ts).map (.recover x)
  else
    match opOfWord w with
    | some o => (parseWholeArg ts).map (.op x o)
    | none => none

/-- A `.code` line after its first word. -/
def parseCode : List Token → Option Line
  | [.word k, .eq, .word n] => if k = "k" then (intOfWord n).map (fun i => .code i none) else none
  | [.word k, .eq, .word n, .word m, .eq, .word t] =>
    if k = "k" ∧ m = "mode" then (intOfWord n).map (fun i => .code i (some t)) else none
  | _ => none

/-- An `.expect` line after its first word. DESIGN CHOICE (log 15): the `<value>` after `==` may be a name as well as a
literal, and the two bindings are then compared. -/
def parseExpect : List Token → Option Line
  | [.word f, .word w] => if f = "fail" then (failureOfWord w).map .expectFail else none
  | .word x :: .eq :: .eq :: ts => if isName true x then (parseWholeArg ts).map (.expect x) else none
  | _ => none

/-- One line of a script that is not empty. -/
def parseLine : List Token → Option Line
  | .word w :: ts =>
    if w = ".code" then parseCode ts
    else if w = ".expect" then parseExpect ts
    else
      match ts with
      | .eq :: .word o :: rest => if isName false w then parseDefinition w o rest else none
      | _ => none
  | _ => none

/-- A script: its lines, the empty ones and the comments left out; none when some line is no line of R47. -/
def parseScript (text : String) : Option (List Line) :=
  (((splitLines text.toList []).map (fun l => lexLine l [])).filter (fun ts => decide (ts ≠ []))).mapM parseLine

end Sys2Proof.Machine
end

