-- ==== Sys2Proof/Safety.lean ====
section
/-! DEFINITION. What a good run is (70_reset_and_hazards.md R126), and the invariant of every state a run can reach. -/

namespace Sys2Proof.Machine

/-- Whether an outcome is what the environment expected: a failure only where exactly that failure was expected
(R126). -/
def expectedOutcome (expectedFailure : Option Failure) : OpOutcome → Bool
  | .ok _ => true
  | .fail f => decide (expectedFailure = some f)

/-- A good run: no outcome is a failure the environment did not expect (R126); `expected` gives, for each outcome in
order, the failure expected of it, if any. DESIGN CHOICE (log 19): an expected `NoColumnMatch` does not keep a run from
being good in this sense; R126's fault mark is read apart from it, by `safeRun`. -/
def goodRun (expected : List (Option Failure)) (outcomes : List OpOutcome) : Bool :=
  decide (expected.length = outcomes.length) && (List.zipWith expectedOutcome expected outcomes).all id

/-- A run not marked as faulted (R126). -/
def State.unfaulted (s : State) : Bool := decide (s.runFault = none)

/-- A good run that is not marked as faulted (R126; U1: a run with `NoColumnMatch` "has gone wrong", expected or not;
log 19). -/
def safeRun (expected : List (Option Failure)) (s : State) : Bool := goodRun expected s.outcomes && s.unfaulted

/-- The outcomes an instance of parameters `(k, MODE)` can give: every value has the stated length (R8, R27, R28), a
codeword and a corrected word have zero syndrome (R76, R91), the status output agrees with the vector beside it (R78,
R81), `match` is one-hot or zero (R40), `BitError` occurs in `DETECT` mode only and `NoColumnMatch` only in `CORRECT`
mode with a shortened code (R99, R100), and no other failure occurs (R8). -/
def OutcomeLegal (k : Nat) (mode : Mode) : OpOutcome → Prop
  | .ok (.codeword w) => w.length = codeLen k ∧ syndromeOf k w = zeros (minimalP k)
  | .ok (.message m) => m.length = k
  | .ok (.syndrome s nz) => s.length = minimalP k ∧ (nz = true ↔ s ≠ zeros (minimalP k))
  | .ok (.position lines valid pos) =>
      pos.length = posWidth k ∧
      ((valid = false ∧ lines = zeros (codeLen k)) ∨
        (valid = true ∧ portInt pos < codeLen k ∧ lines = onehot (codeLen k) (portInt pos)))
  | .ok (.corrected w) => w.length = codeLen k ∧ syndromeOf k w = zeros (minimalP k)
  | .fail .bitError => mode = .detect
  | .fail .noColumnMatch => mode = .correct ∧ perfect k = false
  | .fail .configurationError => False
  | .fail .validationError => False

/-- The invariant of a run: the instance exists (R63), every input port has its width (R13 to R17), every outcome so
far is legal, and the fault mark stands exactly when some outcome is `fail(NoColumnMatch)` (R126). -/
structure State.Inv (s : State) : Prop where
  exists_hardware : 1 ≤ s.k
  encMsg_width : s.encMsg.length = s.k
  extCwIn_width : s.extCwIn.length = codeLen s.k
  synCwIn_width : s.synCwIn.length = codeLen s.k
  posSyndrome_width : s.posSyndrome.length = minimalP s.k
  corCwIn_width : s.corCwIn.length = codeLen s.k
  outcomes_legal : ∀ o ∈ s.outcomes, OutcomeLegal s.k s.mode o
  fault_mark : s.runFault = some .noColumnMatch ↔ OpOutcome.fail .noColumnMatch ∈ s.outcomes

end Sys2Proof.Machine
end

