-- ==== Sys2Proof/Certificates/Slice0/Obligations.lean ====
section
/-! DEFINITION. The statements about the codec. Every statement holds for every instance `(k, MODE)` with `k ≥ 1`
unless it says otherwise. Free values (`err_pos` while `err_valid = 0`) are never assumed to have a value. -/

open Sys2Proof Sys2Proof.Machine

/-! ### Elaboration and the constants -/

/-- R63, R57: the mode is checked before anything else, then `k`; a legal `(k, MODE)` always gives an instance with
these two constants, since the candidates never run out; a mode not given is `CORRECT` (R5). -/
def Obligations.ElaborationChecksModeThenSize : Prop :=
  (∀ (k : Int) (t : String), t ≠ "CORRECT" → t ≠ "DETECT" → elaborate k (some t) = .error .configurationError) ∧
  (∀ k : Int, k < 1 →
    elaborate k none = .error .kBelowOne ∧ elaborate k (some "CORRECT") = .error .kBelowOne ∧
    elaborate k (some "DETECT") = .error .kBelowOne) ∧
  (∀ k : Nat, 1 ≤ k →
    k ≤ (cand (minimalP k)).length ∧
    (∃ s, elaborate k none = .ok s ∧ s.k = k ∧ s.mode = .correct) ∧
    (∃ s, elaborate k (some "CORRECT") = .ok s ∧ s.k = k ∧ s.mode = .correct) ∧
    (∃ s, elaborate k (some "DETECT") = .ok s ∧ s.k = k ∧ s.mode = .detect))

/-- R41: the one-bit encoding of `MODE`, and the only two spellings of a mode in text. -/
def Obligations.ModeEncodingAndSpelling : Prop :=
  Mode.bit .correct = false ∧ Mode.bit .detect = true ∧
  ∀ t : String, (modeOfText t = some .correct ↔ t = "CORRECT") ∧ (modeOfText t = some .detect ↔ t = "DETECT") ∧
    (modeOfText t = none ↔ t ≠ "CORRECT" ∧ t ≠ "DETECT")

/-- R53, R54: `p` is the least natural number with `2^p − p − 1 ≥ k`, and `n = k + p`. The values R53 lists for ranges
of `k` are its own consequences. -/
def Obligations.MinimalPIsLeast : Prop :=
  ∀ k : Nat, 1 ≤ k →
    k ≤ 2 ^ minimalP k - minimalP k - 1 ∧ (∀ q, q < minimalP k → 2 ^ q - q - 1 < k) ∧ codeLen k = k + minimalP k

/-- From R55, with the equivalent form it marks as its own: the candidates are in strictly ascending order, are exactly
the integers from 1 to `2^p − 1` that are no powers of two, and number `2^p − p − 1`. -/
def Obligations.CandidatesAreNonPowersOfTwo : Prop :=
  ∀ p : Nat, (cand p).Pairwise (· < ·) ∧
    (∀ x, x ∈ cand p ↔ 1 ≤ x ∧ x < 2 ^ p ∧ ¬ ∃ i, x = 2 ^ i) ∧ (cand p).length = 2 ^ p - p - 1

/-- R56: `P` has `k` rows of `p` elements, row `i` is the rendering of the `i`-th candidate, entry by entry. -/
def Obligations.ParityMatrixRowsRenderCandidates : Prop :=
  ∀ k : Nat, 1 ≤ k → (parityMatrix k).length = k ∧
    ∀ i, i < k → ∃ x, (cand (minimalP k))[i]? = some x ∧ (parityMatrix k)[i]? = some (binP (minimalP k) x) ∧
      ∀ j, j < minimalP k → entry (parityMatrix k) i j = decide (x / 2 ^ (minimalP k - 1 - j) % 2 = 1)

/-- R58: the entries of `G`, an identity block over `Pᵀ`. -/
def Obligations.GeneratorMatrixEntries : Prop :=
  ∀ k : Nat, 1 ≤ k → (genMatrix k).length = codeLen k ∧ (∀ row ∈ genMatrix k, row.length = k) ∧
    (∀ r c, r < k → c < k → entry (genMatrix k) r c = decide (r = c)) ∧
    (∀ j c, j < minimalP k → c < k → entry (genMatrix k) (k + j) c = entry (parityMatrix k) c j)

/-- R59: the entries and the columns of `H`, `Pᵀ` beside an identity block. -/
def Obligations.CheckMatrixEntries : Prop :=
  ∀ k : Nat, 1 ≤ k → (checkMatrix k).length = minimalP k ∧ (∀ row ∈ checkMatrix k, row.length = codeLen k) ∧
    (∀ r j, r < minimalP k → j < k → entry (checkMatrix k) r j = entry (parityMatrix k) j r) ∧
    (∀ r t, r < minimalP k → t < minimalP k → entry (checkMatrix k) r (k + t) = decide (r = t)) ∧
    (∀ j, j < k → (parityMatrix k)[j]? = some (column (checkMatrix k) j)) ∧
    (∀ t, t < minimalP k → column (checkMatrix k) (k + t) = onehot (minimalP k) t)

/-- From R60 and R62: the column values of `H` in order; they are nonzero and pairwise different; they are all of
`1 .. 2^p − 1` exactly when the code is perfect. -/
def Obligations.ColumnValuesDistinctNonzero : Prop :=
  ∀ k : Nat, 1 ≤ k →
    colVals k = (cand (minimalP k)).take k ++ (List.range (minimalP k)).map (fun t => 2 ^ (minimalP k - 1 - t)) ∧
    (colVals k).Nodup ∧ 0 ∉ colVals k ∧
    (perfect k = true ↔ ∀ x, 1 ≤ x → x < 2 ^ minimalP k → x ∈ colVals k)

/-- From R65: the closed form of a candidate's index. -/
def Obligations.CandidateIndexClosedForm : Prop :=
  ∀ p i x : Nat, (cand p)[i]? = some x → candIndex x = i

/-- From R61: every column of `G` has zero syndrome. -/
def Obligations.CheckTimesGeneratorIsZero : Prop :=
  ∀ k c : Nat, 1 ≤ k → c < k → matVec (checkMatrix k) (column (genMatrix k) c) = zeros (minimalP k)

/-- From R120: `n` increases strictly with `k`, so instances of different `k` never have equal widths. -/
def Obligations.CodeLengthStrictlyIncreases : Prop :=
  ∀ k k' : Nat, 1 ≤ k → k < k' → codeLen k < codeLen k'

/-- From R52, the product without the linearity it derives: a matrix times a vector, element by element. -/
def Obligations.MatrixProductElementwise : Prop :=
  ∀ (M : Matrix) (v : Bits), (∀ row ∈ M, row.length = v.length) →
    (matVec M v).length = M.length ∧
    ∀ r, r < M.length →
      bitAt (matVec M v) r = xorAll ((List.range v.length).map (fun c => entry M r c && bitAt v c))

/-- From R36, R37 and R38: `bin_p` and `colval` are inverse to each other, and the port integer of a syndrome is the
bit-reversal of its `colval`. -/
def Obligations.ColvalInvertsBinP : Prop :=
  (∀ p x : Nat, x < 2 ^ p → colval (binP p x) = x) ∧
  (∀ s : Bits, binP s.length (colval s) = s) ∧
  (∀ s : Bits, portInt s.reverse = colval s)

/-! ### Descriptors -/

/-- The decoder and the encoder agree, in both directions: every well-formed operation is read back from its
descriptor, and a descriptor that is read is the descriptor of the well-formed operation it gives (R43 to R46). -/
def Obligations.DecodeEncodeRoundTrip : Prop :=
  (∀ (k : Nat) (i : Instr), wellFormed k i = true → decode k (encode i) = .ok i) ∧
  (∀ (k : Nat) (d : Descriptor) (i : Instr), decode k d = .ok i → wellFormed k i = true ∧ encode i = d)

/-- R43: a descriptor has `3 + L` bits, its identifier in bits 2 to 0, element `i` of the operand on bit `3 + i`; as an
integer it is the identifier plus eight times the port integer of the operand. -/
def Obligations.DescriptorLayout : Prop :=
  ∀ (k : Nat) (i : Instr), wellFormed k i = true →
    (encode i).length = 3 + i.operandLen k ∧ portInt ((encode i).take 3) = i.opId ∧
    (∀ j, j < i.operandLen k → bitAt (encode i) (3 + j) = bitAt i.operand j) ∧
    portInt (encode i) = i.opId + 8 * portInt i.operand

/-- R44, R45: for each identifier, the operation, its operand length and the refusal of any other width; the reserved
identifiers name no operation whatever the width. -/
def Obligations.DecoderByIdentifier : Prop :=
  ∀ (k : Nat) (v : Bits),
    decode k (ofPortInt 3 0 ++ v) = (if v.length = k then .ok (.enc v) else .error .validationError) ∧
    decode k (ofPortInt 3 1 ++ v) = (if v.length = k + minimalP k then .ok (.ext v) else .error .validationError) ∧
    decode k (ofPortInt 3 2 ++ v) = (if v.length = k + minimalP k then .ok (.syn v) else .error .validationError) ∧
    decode k (ofPortInt 3 3 ++ v) = (if v.length = minimalP k then .ok (.pos v) else .error .validationError) ∧
    decode k (ofPortInt 3 4 ++ v) = (if v.length = k + minimalP k then .ok (.cor v) else .error .validationError) ∧
    decode k (ofPortInt 3 5 ++ v) = .error (.noSuchOperation 5) ∧
    decode k (ofPortInt 3 6 ++ v) = .error (.noSuchOperation 6) ∧
    decode k (ofPortInt 3 7 ++ v) = .error (.noSuchOperation 7)

/-- Words of 95_test_vectors.md V-FAIL and section 3, instance `k = 4`. -/
def Obligations.DecodeSampleWords : Prop :=
  decode 4 (descriptorOf 7 0x68) = .ok (.enc [true, false, true, true]) ∧
  decode 4 (descriptorOf 10 0x169) = .ok (.ext [true, false, true, true, false, true, false]) ∧
  decode 4 (descriptorOf 10 0x16a) = .ok (.syn [true, false, true, true, false, true, false]) ∧
  decode 4 (descriptorOf 6 0x1b) = .ok (.pos [true, true, false]) ∧
  decode 4 (descriptorOf 10 0x14c) = .ok (.cor [true, false, false, true, false, true, false]) ∧
  decode 4 (descriptorOf 8 0x68) = .error .validationError ∧
  decode 4 (descriptorOf 6 0x1d) = .error (.noSuchOperation 5)

/-- A step runs the operation its descriptor decodes to, on the state with that descriptor taken off the run; a
descriptor the decoder refuses is refused under the same name and not evaluated (R44, R45;
the model's reading, log 11); with nothing left to apply
nothing changes (the model's choice, log 5). -/
def Obligations.StepRunsDecoded : Prop :=
  (∀ (s : State) (i : Instr) (rest : List Descriptor), wellFormed s.k i = true → s.pending = encode i :: rest →
    step s = exec i { s with pending := rest }) ∧
  (∀ (s : State) (d : Descriptor) (rest : List Descriptor) (i : Instr), s.pending = d :: rest →
    decode s.k d = .ok i → step s = exec i { s with pending := rest }) ∧
  (∀ (s : State) (d : Descriptor) (rest : List Descriptor), s.pending = d :: rest →
    (∀ id, decode s.k d = .error (.noSuchOperation id) → step s = .refused (.noSuchOperation id)) ∧
    (decode s.k d = .error .validationError → step s = .refused .validationError)) ∧
  (∀ s : State, s.pending = [] → step s = .next s)

/-! ### The operations: results, completion, ports -/

/-- From R9, R20 and R113, with R80, R81 and R88 for the equations: in every state, whatever happened before, each of the
ten output ports of R13 to R17 is its unit's function of the value now on the unit's own input port and of the
constants. `err_pos` without a match is some `W`-bit value, of which nothing more is said (R82). -/
def Obligations.OutputPortsFollowInputs : Prop :=
  ∀ s : State,
    s.cw = matVec (genMatrix s.k) s.encMsg ∧
    s.msgOut = s.extCwIn.take s.k ∧
    s.syndrome = matVec (checkMatrix s.k) s.synCwIn ∧
    s.synNonzero = orAll (matVec (checkMatrix s.k) s.synCwIn) ∧
    s.posMatch = matchLines s.k s.posSyndrome ∧
    s.posMatch.length = codeLen s.k ∧
    (∀ j, j < codeLen s.k → (bitAt s.posMatch j = true ↔
      ∀ r, r < minimalP s.k → bitAt s.posSyndrome r = entry (checkMatrix s.k) r j)) ∧
    s.errValid = orAll (matchLines s.k s.posSyndrome) ∧
    s.errPos.length = posWidth s.k ∧
    (∀ j, positionOf s.k s.posSyndrome = some j → s.errPos = ofPortInt (posWidth s.k) j) ∧
    (s.mode = .correct →
      s.cwOut = vxor s.corCwIn (matchLines s.k (matVec (checkMatrix s.k) s.corCwIn)) ∧
      s.bitError = false ∧
      s.noMatch = (orAll (matVec (checkMatrix s.k) s.corCwIn) &&
        !orAll (matchLines s.k (matVec (checkMatrix s.k) s.corCwIn)))) ∧
    (s.mode = .detect →
      s.cwOut = s.corCwIn ∧
      s.bitError = orAll (matVec (checkMatrix s.k) s.corCwIn) ∧
      s.noMatch = false)

/-- R67: `ENC` completes on every message of `k` elements with `cw = G · msg`, an `ok` outcome and no other effect; the
port `cw` shows it. -/
def Obligations.EncCompletesWithProduct : Prop :=
  ∀ (s : State) (msg : Bits), 1 ≤ s.k → msg.length = s.k →
    ∃ t, exec (.enc msg) s = .next t ∧
      t = { s with encMsg := msg, outcomes := s.outcomes ++ [.ok (.codeword (matVec (genMatrix s.k) msg))] } ∧
      t.cw = matVec (genMatrix s.k) msg ∧ t.cw.length = s.k + minimalP s.k

/-- R71: `EXT` completes on every word of `n` elements with the first `k` of them, an `ok` outcome and no other
effect; the port `msg_out` shows them. -/
def Obligations.ExtCompletesWithFirstElements : Prop :=
  ∀ (s : State) (w : Bits), 1 ≤ s.k → w.length = s.k + minimalP s.k →
    ∃ t m, exec (.ext w) s = .next t ∧ m.length = s.k ∧ (∀ i, i < s.k → bitAt m i = bitAt w i) ∧
      t = { s with extCwIn := w, outcomes := s.outcomes ++ [.ok (.message m)] } ∧ t.msgOut = m

/-- R74, R78: `SYN` completes on every word of `n` elements with `s = H · word` and `syn_nonzero` the OR of its
elements, an `ok` outcome and no other effect; the ports show them. -/
def Obligations.SynCompletesWithProduct : Prop :=
  ∀ (s : State) (w : Bits), 1 ≤ s.k → w.length = s.k + minimalP s.k →
    ∃ t nz, exec (.syn w) s = .next t ∧
      (nz = true ↔ ∃ r, r < minimalP s.k ∧ bitAt (matVec (checkMatrix s.k) w) r = true) ∧
      t = { s with synCwIn := w, outcomes := s.outcomes ++ [.ok (.syndrome (matVec (checkMatrix s.k) w) nz)] } ∧
      t.syndrome = matVec (checkMatrix s.k) w ∧ t.syndrome.length = minimalP s.k ∧ t.synNonzero = nz

/-- R79, R80, R82: `POS` completes on every syndrome of `p` elements: `match[j]` is 1 exactly when column `j` of `H`
equals the syndrome, `err_valid` exactly when some column does, and `err_pos` is then that column's index in `W` bits;
otherwise `err_pos` is some `W`-bit value of which nothing is said. The outcome is `ok` in every case. Nothing else
changes but the model's own draw counter, of which nothing is said (log 3). -/
def Obligations.PosCompletesWithMatch : Prop :=
  ∀ (s : State) (v : Bits), 1 ≤ s.k → v.length = minimalP s.k →
    ∃ t lines valid pos, exec (.pos v) s = .next t ∧
      t = { s with posSyndrome := v, posDraw := t.posDraw,
                   outcomes := s.outcomes ++ [.ok (.position lines valid pos)] } ∧
      lines.length = codeLen s.k ∧
      (∀ j, j < codeLen s.k → (bitAt lines j = true ↔ column (checkMatrix s.k) j = v)) ∧
      (valid = true ↔ ∃ j, j < codeLen s.k ∧ column (checkMatrix s.k) j = v) ∧
      pos.length = posWidth s.k ∧
      (∀ j, j < codeLen s.k → column (checkMatrix s.k) j = v → pos = ofPortInt (posWidth s.k) j) ∧
      t.posMatch = lines ∧ t.errValid = valid ∧ t.errPos = pos

/-- From R87 and R88: the four rows of the table of `COR`: outcome, `cw_out`, `bit_error`, `no_match`; the word stays on
`cw_in`, and nothing else changes. That the machine goes on in a next state under `NoColumnMatch`, where R93, R100 and
U1 ask a model for a fault, is the model's reading (log 4); of the run's fault mark this statement says nothing. -/
def Obligations.CorOutcomeTable : Prop :=
  ∀ (s : State) (w : Bits), 1 ≤ s.k → w.length = s.k + minimalP s.k →
    (matVec (checkMatrix s.k) w = zeros (minimalP s.k) →
      ∃ t, exec (.cor w) s = .next t ∧
        t = { s with corCwIn := w, outcomes := s.outcomes ++ [.ok (.corrected w)] } ∧
        t.cwOut = w ∧ t.bitError = false ∧ t.noMatch = false) ∧
    (s.mode = .correct → ∀ j, j < codeLen s.k → column (checkMatrix s.k) j = matVec (checkMatrix s.k) w →
      ∃ t, exec (.cor w) s = .next t ∧
        t = { s with corCwIn := w,
                     outcomes := s.outcomes ++ [.ok (.corrected (vxor w (onehot (codeLen s.k) j)))] } ∧
        t.cwOut = vxor w (onehot (codeLen s.k) j) ∧ t.bitError = false ∧ t.noMatch = false) ∧
    (s.mode = .correct → matVec (checkMatrix s.k) w ≠ zeros (minimalP s.k) →
      (∀ j, j < codeLen s.k → column (checkMatrix s.k) j ≠ matVec (checkMatrix s.k) w) →
      ∃ t, exec (.cor w) s = .next t ∧
        t = { s with corCwIn := w, outcomes := s.outcomes ++ [.fail .noColumnMatch],
                     runFault := t.runFault } ∧
        t.cwOut = w ∧ t.bitError = false ∧ t.noMatch = true) ∧
    (s.mode = .detect → matVec (checkMatrix s.k) w ≠ zeros (minimalP s.k) →
      ∃ t, exec (.cor w) s = .next t ∧
        t = { s with corCwIn := w, outcomes := s.outcomes ++ [.fail .bitError] } ∧
        t.cwOut = w ∧ t.bitError = true ∧ t.noMatch = false)

/-- Every operation on an existing instance completes on an operand of its exact length and is refused with
`ValidationError` on any other, before anything is evaluated; no operation has a meaning where no hardware exists; no
operation stops with a fault (from R27, R98 and R63). That the two refusals take this form is the model's reading
(log 11, log 12), and so is that `COR` completes, and nothing stops with a fault, where `NoColumnMatch` arises, which U1
asks a model to treat as a fault (log 4). -/
def Obligations.OperationsCompleteExactlyWhenWellFormed : Prop :=
  ∀ (i : Instr) (s : State),
    (1 ≤ s.k → wellFormed s.k i = true → ∃ t, exec i s = .next t) ∧
    (1 ≤ s.k → wellFormed s.k i = false → exec i s = .refused .validationError) ∧
    (s.k = 0 → exec i s = .refused .noHardware) ∧
    (∀ f, exec i s ≠ .fault f)

/-- From R8: an evaluation has exactly one outcome; only `COR` can fail, with `BitError` in `DETECT` mode and
`NoColumnMatch` in `CORRECT` mode; `ENC`, `EXT`, `SYN` and `POS` always return `ok`. -/
def Obligations.OnlyCorFails : Prop :=
  ∀ (i : Instr) (s t : State), exec i s = .next t →
    ∃ o, t.outcomes = s.outcomes ++ [o] ∧
      ((∃ v, o = .ok v) ∨
       (∃ w, i = .cor w ∧
         ((o = .fail .bitError ∧ s.mode = .detect) ∨ (o = .fail .noColumnMatch ∧ s.mode = .correct))))

/-- The frame of the five operations: an evaluation changes the input port of its own unit only, and so the output
ports of its own unit only; it never changes the constants, the operations still to come or an earlier outcome; only
`POS` takes a free draw; the fault mark changes only when `COR` raises `NoColumnMatch` (R9, R21, R22, R126; the draw
counter and the mark are the model's, log 3 and log 4). -/
def Obligations.EvaluationFrame : Prop :=
  ∀ (i : Instr) (s t : State), exec i s = .next t →
    t.k = s.k ∧ t.mode = s.mode ∧ t.pending = s.pending ∧
    (∃ o, t.outcomes = s.outcomes ++ [o] ∧ (o ≠ .fail .noColumnMatch → t.runFault = s.runFault)) ∧
    ((∃ v, i = .enc v ∧ t.encMsg = v) ∨ (t.encMsg = s.encMsg ∧ t.cw = s.cw)) ∧
    ((∃ v, i = .ext v ∧ t.extCwIn = v) ∨ (t.extCwIn = s.extCwIn ∧ t.msgOut = s.msgOut)) ∧
    ((∃ v, i = .syn v ∧ t.synCwIn = v) ∨
      (t.synCwIn = s.synCwIn ∧ t.syndrome = s.syndrome ∧ t.synNonzero = s.synNonzero)) ∧
    ((∃ v, i = .pos v ∧ t.posSyndrome = v) ∨
      (t.posSyndrome = s.posSyndrome ∧ t.posDraw = s.posDraw ∧ t.posMatch = s.posMatch ∧ t.errValid = s.errValid ∧
        t.errPos = s.errPos)) ∧
    ((∃ v, i = .cor v ∧ t.corCwIn = v) ∨
      (t.corCwIn = s.corCwIn ∧ t.cwOut = s.cwOut ∧ t.bitError = s.bitError ∧ t.noMatch = s.noMatch))

/-- From R24 and R32: the outcome of an evaluation depends on its operand and on the constants alone, whatever happened
before. Only `err_pos` while `err_valid = 0`, a free value (R82), may differ. -/
def Obligations.OutcomeDependsOnOperandAndConstants : Prop :=
  ∀ (i : Instr) (s s' t t' : State), s.k = s'.k → s.mode = s'.mode → exec i s = .next t → exec i s' = .next t' →
    ∃ o o', t.outcomes = s.outcomes ++ [o] ∧ t'.outcomes = s'.outcomes ++ [o'] ∧
      (o = o' ∨ ∃ lines pos pos', o = .ok (.position lines false pos) ∧ o' = .ok (.position lines false pos'))

/-! ### The position decoder -/

/-- R39, R40: `W` is the least width that holds every position; `match` is one-hot with `err_pos` the same index, below
`n`, or it is zero with `err_valid = 0`. -/
def Obligations.MatchIsOneHotOrZero : Prop :=
  ∀ (k draw : Nat) (s : Bits), 1 ≤ k → s.length = minimalP k →
    codeLen k ≤ 2 ^ posWidth k ∧ (∀ w, w < posWidth k → 2 ^ w < codeLen k) ∧
    ((errValidFlag (matchLines k s) = false ∧ matchLines k s = zeros (codeLen k)) ∨
     (errValidFlag (matchLines k s) = true ∧
       ∃ j, j < codeLen k ∧ matchLines k s = onehot (codeLen k) j ∧ portInt (errPosOut k draw s) = j ∧
         ∀ b, b < posWidth k → bitAt (errPosOut k draw s) b = decide (j / 2 ^ b % 2 = 1)))

/-- From R26, R85: the column search and the look-up table, given by the closed form on `colval`, are the same
function. -/
def Obligations.PositionLookupClosedForm : Prop :=
  ∀ (k : Nat) (s : Bits), 1 ≤ k → s.length = minimalP k →
    positionOf k s = lutEntry k (colval s) ∧ (lutTable k)[colval s]? = some (positionOf k s)

/-- From R83, R84: the lookup finds nothing exactly when `colval` is the value of no column; the zero syndrome matches
nothing; in a perfect code every other syndrome matches. -/
def Obligations.PositionNoneExactly : Prop :=
  ∀ (k : Nat) (s : Bits), 1 ≤ k → s.length = minimalP k →
    (positionOf k s = none ↔ colval s ∉ colVals k) ∧ positionOf k (zeros (minimalP k)) = none ∧
    (perfect k = true → s ≠ zeros (minimalP k) → ∃ j, j < codeLen k ∧ positionOf k s = some j)

/-! ### Encoding and syndromes -/

/-- From R68: the message bits are copied, and parity bit `j` is the XOR of the message bits that feed it. -/
def Obligations.EncodeIsSystematic : Prop :=
  ∀ (k : Nat) (m : Bits), 1 ≤ k → m.length = k →
    (∀ i, i < k → bitAt (encodeWord k m) i = bitAt m i) ∧
    (∀ j, j < minimalP k →
      bitAt (encodeWord k m) (k + j) =
        xorAll ((List.range k).map (fun i => entry (parityMatrix k) i j && bitAt m i)))

/-- R72: encoding a message and extracting from the codeword on the encoder's port gives the message back. -/
def Obligations.ExtractAfterEncode : Prop :=
  ∀ (s : State) (m : Bits), 1 ≤ s.k → m.length = s.k →
    ∃ t u, exec (.enc m) s = .next t ∧ exec (.ext t.cw) t = .next u ∧ u.msgOut = m ∧
      u.outcomes = t.outcomes ++ [.ok (.message m)]

/-- From R75: the syndrome, element by element: the parity recomputed from the received message bits against the
received parity bit. -/
def Obligations.SyndromeComparesParity : Prop :=
  ∀ (k : Nat) (w : Bits), 1 ≤ k → w.length = codeLen k →
    ∀ r, r < minimalP k →
      bitAt (syndromeOf k w) r = Bool.xor (bitAt (encodeWord k (extractMessage k w)) (k + r)) (bitAt w (k + r))

/-- From R76 and R73: the words of zero syndrome are exactly the codewords, which are exactly the words that encoding
their extracted message gives back. -/
def Obligations.ZeroSyndromeIffCodeword : Prop :=
  ∀ (k : Nat) (w : Bits), 1 ≤ k → w.length = codeLen k →
    (syndromeOf k w = zeros (minimalP k) ↔ ∃ m : Bits, m.length = k ∧ encodeWord k m = w) ∧
    (syndromeOf k w = zeros (minimalP k) ↔ encodeWord k (extractMessage k w) = w)

/-- From R69: encoding is linear and injective, and two different codewords differ in at least three positions. -/
def Obligations.EncodeLinearWithDistanceThree : Prop :=
  ∀ (k : Nat) (a b : Bits), 1 ≤ k → a.length = k → b.length = k →
    encodeWord k (vxor a b) = vxor (encodeWord k a) (encodeWord k b) ∧
    (encodeWord k a = encodeWord k b → a = b) ∧
    (a ≠ b → 3 ≤ weight (vxor (encodeWord k a) (encodeWord k b)))

/-- From R77: the syndrome of a received word is that of the error alone; one flipped bit gives its column, and two give
the XOR of their columns, which is nonzero and neither of the two. -/
def Obligations.SyndromeDependsOnErrorOnly : Prop :=
  ∀ (k : Nat) (m : Bits), 1 ≤ k → m.length = k →
    (∀ e : Bits, e.length = codeLen k → syndromeOf k (vxor (encodeWord k m) e) = syndromeOf k e) ∧
    (∀ j, j < codeLen k →
      syndromeOf k (vxor (encodeWord k m) (onehot (codeLen k) j)) = column (checkMatrix k) j ∧
      column (checkMatrix k) j ≠ zeros (minimalP k)) ∧
    (∀ a b, a < codeLen k → b < codeLen k → a ≠ b →
      ∃ s, s = syndromeOf k (vxor (vxor (encodeWord k m) (onehot (codeLen k) a)) (onehot (codeLen k) b)) ∧
        s = vxor (column (checkMatrix k) a) (column (checkMatrix k) b) ∧ s ≠ zeros (minimalP k) ∧
        s ≠ column (checkMatrix k) a ∧ s ≠ column (checkMatrix k) b)

/-! ### The corrector -/

/-- R89: in `CORRECT` mode every single flipped bit of every codeword, message or parity, is repaired, for every `k`. -/
def Obligations.SingleBitErrorsCorrected : Prop :=
  ∀ (s : State) (m : Bits) (j : Nat), 1 ≤ s.k → s.mode = .correct → m.length = s.k → j < codeLen s.k →
    ∃ t, exec (.cor (vxor (encodeWord s.k m) (onehot (codeLen s.k) j))) s = .next t ∧
      t.outcomes = s.outcomes ++ [.ok (.corrected (encodeWord s.k m))] ∧
      t.cwOut = encodeWord s.k m ∧ t.bitError = false ∧ t.noMatch = false

/-- R90: in `DETECT` mode one or two flipped bits of a codeword are rejected with `BitError`, and the word is left as it
is on `cw_in` and on `cw_out`. -/
def Obligations.DetectModeRejectsOneAndTwoFlips : Prop :=
  ∀ (s : State) (m : Bits) (a b : Nat), 1 ≤ s.k → s.mode = .detect → m.length = s.k → a < codeLen s.k →
    b < codeLen s.k →
    (∃ t w, w = vxor (encodeWord s.k m) (onehot (codeLen s.k) a) ∧ exec (.cor w) s = .next t ∧
      t.outcomes = s.outcomes ++ [.fail .bitError] ∧ t.cwOut = w ∧ t.corCwIn = w ∧ t.bitError = true) ∧
    (a ≠ b → ∃ t w, w = vxor (vxor (encodeWord s.k m) (onehot (codeLen s.k) a)) (onehot (codeLen s.k) b) ∧
      exec (.cor w) s = .next t ∧
      t.outcomes = s.outcomes ++ [.fail .bitError] ∧ t.cwOut = w ∧ t.corCwIn = w ∧ t.bitError = true)

/-- From R91: a word of zero syndrome is a fixed point of `COR` in both modes, and every `ok` result of `COR` is a word
of zero syndrome, hence a fixed point. -/
def Obligations.CorrectionIsIdempotent : Prop :=
  ∀ (k : Nat) (mode : Mode) (w : Bits), 1 ≤ k → w.length = codeLen k →
    (syndromeOf k w = zeros (minimalP k) → checkCorrect k mode w = .ok w) ∧
    (∀ w', checkCorrect k mode w = .ok w' →
      w'.length = codeLen k ∧ syndromeOf k w' = zeros (minimalP k) ∧ checkCorrect k mode w' = .ok w')

/-- R92, R101: two flipped bits whose syndrome is a third column are silently turned into a wrong codeword at distance
three, with no failure, no status output and no mark; in a perfect code the third column always exists. -/
def Obligations.TwoBitErrorsMisdecodeSilently : Prop :=
  ∀ (s : State) (m : Bits) (a b : Nat), 1 ≤ s.k → s.mode = .correct → m.length = s.k → a < codeLen s.k →
    b < codeLen s.k → a ≠ b →
    ∃ w, w = vxor (vxor (encodeWord s.k m) (onehot (codeLen s.k) a)) (onehot (codeLen s.k) b) ∧
      syndromeOf s.k w = vxor (column (checkMatrix s.k) a) (column (checkMatrix s.k) b) ∧
      (∀ j, j < codeLen s.k → column (checkMatrix s.k) j = syndromeOf s.k w →
        j ≠ a ∧ j ≠ b ∧
        ∃ t w', w' = vxor w (onehot (codeLen s.k) j) ∧ exec (.cor w) s = .next t ∧
          t.outcomes = s.outcomes ++ [.ok (.corrected w')] ∧ t.runFault = s.runFault ∧
          t.cwOut = w' ∧ t.bitError = false ∧ t.noMatch = false ∧
          syndromeOf s.k w' = zeros (minimalP s.k) ∧ weight (vxor w' (encodeWord s.k m)) = 3) ∧
      (perfect s.k = true → ∃ j, j < codeLen s.k ∧ column (checkMatrix s.k) j = syndromeOf s.k w)

/-- From R93 and R100 (the spec's decision D9): `NoColumnMatch` never arises from a codeword with no or one flipped bit;
with two it arises exactly when the XOR of the two column values is the value of no column; it never arises in a
perfect code; where it arises the machine goes on with the run marked as faulted (the model's reading, log 4). -/
def Obligations.NoColumnMatchExactly : Prop :=
  ∀ (s t : State) (w : Bits), 1 ≤ s.k → s.mode = .correct → exec (.cor w) s = .next t →
    (t.noMatch = true → t.outcomes = s.outcomes ++ [.fail .noColumnMatch] ∧ t.cwOut = w ∧ t.bitError = false ∧
      t.runFault = some .noColumnMatch) ∧
    (perfect s.k = true → t.noMatch = false) ∧
    (∀ m : Bits, m.length = s.k →
      (w = encodeWord s.k m → t.noMatch = false) ∧
      (∀ j, j < codeLen s.k → w = vxor (encodeWord s.k m) (onehot (codeLen s.k) j) → t.noMatch = false) ∧
      (∀ a b, a < codeLen s.k → b < codeLen s.k → a ≠ b →
        w = vxor (vxor (encodeWord s.k m) (onehot (codeLen s.k) a)) (onehot (codeLen s.k) b) →
        (t.noMatch = true ↔
          (colval (column (checkMatrix s.k) a) ^^^ colval (column (checkMatrix s.k) b)) ∉ colVals s.k)))

/-- From R94: an error pattern that is itself a codeword goes unseen in both modes. -/
def Obligations.CodewordErrorsUndetected : Prop :=
  ∀ (s : State) (m e : Bits), 1 ≤ s.k → m.length = s.k → e.length = s.k →
    ∃ t w, w = vxor (encodeWord s.k m) (encodeWord s.k e) ∧ exec (.cor w) s = .next t ∧
      t.outcomes = s.outcomes ++ [.ok (.corrected w)] ∧ t.cwOut = w ∧ t.bitError = false ∧ t.noMatch = false

/-- From R104: the abstract outcome and the ports agree: the outcome is `ok` exactly when both failure outputs are 0,
and `cw_out` is then the result; under a failure its own output is 1 and `cw_out` is `cw_in`; never are both 1. -/
def Obligations.AbstractOutcomeAgreesWithPorts : Prop :=
  ∀ (k : Nat) (mode : Mode) (w : Bits), 1 ≤ k → w.length = codeLen k →
    (∀ w', checkCorrect k mode w = .ok w' ↔
      bitErrorPort k mode w = false ∧ noMatchPort k mode w = false ∧ cwOutPort k mode w = w') ∧
    (checkCorrect k mode w = .error .bitError ↔ bitErrorPort k mode w = true) ∧
    (checkCorrect k mode w = .error .noColumnMatch ↔ noMatchPort k mode w = true) ∧
    (∀ f, checkCorrect k mode w = .error f → cwOutPort k mode w = w) ∧
    ¬ (bitErrorPort k mode w = true ∧ noMatchPort k mode w = true)

/-! ### Runs and scripts -/

/-- From R95: in `CORRECT` mode `RECOVER` returns the message of every codeword with one flipped bit. -/
def Obligations.RecoverAfterOneFlip : Prop :=
  ∀ (s : State) (m : Bits) (j : Nat), 1 ≤ s.k → s.mode = .correct → m.length = s.k → j < codeLen s.k →
    ∃ u, recoverOn s (vxor (encodeWord s.k m) (onehot (codeLen s.k) j)) = .ok u (.message m) ∧
      u.outcomes = s.outcomes ++ [.ok (.corrected (encodeWord s.k m)), .ok (.message m)]

/-- From R47: `RECOVER` is `COR` followed by `EXT` on its result; it fails exactly when `COR` fails and with the same
failure (that the instance goes on after a failure is the model's reading, log 4). -/
def Obligations.RecoverIsCorThenExt : Prop :=
  ∀ (s : State) (w : Bits), 1 ≤ s.k → w.length = codeLen s.k →
    (∀ w', checkCorrect s.k s.mode w = .ok w' → ∃ u, recoverOn s w = .ok u (.message (extractMessage s.k w'))) ∧
    (∀ f, checkCorrect s.k s.mode w = .error f → ∃ u, recoverOn s w = .fail u f)

/-- From R47: listing the same positions twice restores the word, and one listed position inverts that bit and no
other. -/
def Obligations.FlipTwiceRestores : Prop :=
  ∀ (v : Bits) (js : List Nat), (∀ j ∈ js, j < v.length) →
    flipBits v (js ++ js) = v ∧ (flipBits v js).length = v.length ∧
    (∀ j i, j < v.length → i < v.length → bitAt (flipBits v [j]) i = Bool.xor (bitAt v i) (decide (i = j)))

/-- From R126: a line whose `COR`, alone or within `RECOVER`, has the outcome `fail(NoColumnMatch)` marks the script's run
as faulted; nothing else ever marks it; and no later line takes the mark back, whatever the script expects. That the
mark also outlives a second `.code`, where R126 speaks of a run on one instance, is the model's choice (log 14). So is
the clause that nothing else ever marks the run: R126 says only that `NoColumnMatch` always does, and a line with an
operand of the wrong length or a `.code` refused for its mode, of which U6 and U4 say `refuse`, does not mark it as
faulted in the model (log 21), nor does a `.code` with `k < 1` or another line with no meaning (log 14). -/
def Obligations.ScriptFaultMarkSetAndStays : Prop :=
  (∀ (b : Bench) (s : State) (x : String) (a : Arg) (w : Bits), b.inst = some s → b.value a = some w → 1 ≤ s.k →
    w.length = codeLen s.k → checkCorrect s.k s.mode w = .error .noColumnMatch →
    ((b.line (.op x .cor a)).faulted = true ∧ (b.line (.op x .cor a)).lastFailure = some .noColumnMatch) ∧
    ((b.line (.recover x a)).faulted = true ∧ (b.line (.recover x a)).lastFailure = some .noColumnMatch)) ∧
  (∀ (b : Bench) (l : Line), (b.line l).faulted = true →
    b.faulted = true ∨ (b.line l).lastFailure = some .noColumnMatch) ∧
  (∀ (b : Bench) (ls : List Line), b.faulted = true → (ls.foldl Bench.line b).faulted = true)

/-- From R10, R11, R64 and R126: a step never changes the constants of the instance, applies at most the head of the
run, keeps every earlier outcome, and never takes a fault mark back (the list of operations and the mark are the
model's, log 5 and log 4). -/
def Obligations.StepKeepsConstantsAndHistory : Prop :=
  ∀ s t : State, step s = .next t →
    t.k = s.k ∧ t.mode = s.mode ∧ t.pending = s.pending.tail ∧ s.outcomes <+: t.outcomes ∧
    t.outcomes.length = s.outcomes.length + (s.pending.length - t.pending.length) ∧
    (s.runFault.isSome = true → t.runFault.isSome = true)

/-- An instance just elaborated, the reset instance among them, meets the invariant of runs (its `k` and the values on
its input ports are the model's choice, log 1 and log 2). -/
def Obligations.FreshInstancesMeetInvariant : Prop :=
  State.reset.Inv ∧ ∀ (k : Nat) (mode : Mode), 1 ≤ k → (State.fresh k mode).Inv

/-- Every step keeps the invariant of runs: the widths of all ports; every codeword and every corrected word given back
has zero syndrome; `match` is one-hot or zero; `BitError` occurs in `DETECT` mode only and `NoColumnMatch` in
`CORRECT` mode with a shortened code only; the fault mark stands exactly when `NoColumnMatch` occurred (the mark is the model's, log 4). -/
def Obligations.StepKeepsInvariant : Prop :=
  ∀ s t : State, s.Inv → step s = .next t → t.Inv
end

