-- ==== Sys2Proof/Laws/Gf2.lean ====
section
/-! SUPPORT. Laws of the GF(2) operations and of the written forms of a vector: lengths, elements, linearity. -/

namespace Sys2Proof

/-! ### Elements and extensionality -/

@[simp] theorem bitAt_nil (i : Nat) : bitAt [] i = false := by simp [bitAt]

@[simp] theorem bitAt_cons_zero (b : Bool) (v : Bits) : bitAt (b :: v) 0 = b := by simp [bitAt]

@[simp] theorem bitAt_cons_succ (b : Bool) (v : Bits) (i : Nat) : bitAt (b :: v) (i + 1) = bitAt v i := by
  simp [bitAt]

theorem bitAt_eq_getElem {v : Bits} {i : Nat} (h : i < v.length) : bitAt v i = v[i] := by simp [bitAt, h]

/-- Vectors of one length with equal elements are equal. -/
theorem bits_ext {u v : Bits} (hlen : u.length = v.length) (h : ∀ i < u.length, bitAt u i = bitAt v i) : u = v := by
  refine List.ext_getElem hlen fun i hu hv => ?_
  rw [← bitAt_eq_getElem hu, ← bitAt_eq_getElem hv]
  exact h i hu

theorem bitAt_map_range {L i : Nat} (f : Nat → Bool) (h : i < L) : bitAt ((List.range L).map f) i = f i := by
  simp [bitAt, h]

theorem bitAt_append_left {u v : Bits} {i : Nat} (h : i < u.length) : bitAt (u ++ v) i = bitAt u i := by
  simp [bitAt, List.getElem?_append_left h]

theorem bitAt_append_right {u v : Bits} {i : Nat} (h : u.length ≤ i) : bitAt (u ++ v) i = bitAt v (i - u.length) := by
  simp [bitAt, List.getElem?_append_right h]

theorem entry_of_lt {M : Matrix} {r : Nat} (h : r < M.length) (c : Nat) : entry M r c = bitAt M[r] c := by
  simp [entry, h]

/-! ### Lengths -/

@[simp] theorem length_zeros (L : Nat) : (zeros L).length = L := by simp [zeros]

@[simp] theorem length_onehot (n j : Nat) : (onehot n j).length = n := by simp [onehot]

@[simp] theorem length_vxor (u v : Bits) : (vxor u v).length = min u.length v.length := by simp [vxor]

@[simp] theorem length_matVec (M : Matrix) (v : Bits) : (matVec M v).length = M.length := by simp [matVec]

@[simp] theorem length_column (M : Matrix) (c : Nat) : (column M c).length = M.length := by simp [column]

@[simp] theorem length_transpose (cols : Nat) (M : Matrix) : (transpose cols M).length = cols := by simp [transpose]

@[simp] theorem length_identity (m : Nat) : (identity m).length = m := by simp [identity]

@[simp] theorem length_hcat (A B : Matrix) : (hcat A B).length = min A.length B.length := by simp [hcat]

@[simp] theorem length_ofPortInt (L x : Nat) : (ofPortInt L x).length = L := by simp [ofPortInt]

@[simp] theorem length_binP (p x : Nat) : (binP p x).length = p := by simp [binP]

/-! ### Elements of the constructions -/

@[simp] theorem bitAt_zeros (L i : Nat) : bitAt (zeros L) i = false := by
  by_cases h : i < L <;> simp [bitAt, zeros, h]

theorem bitAt_onehot {n i : Nat} (h : i < n) (j : Nat) : bitAt (onehot n j) i = decide (i = j) := by
  simp [onehot, bitAt_map_range _ h]

theorem bitAt_vxor {u v : Bits} {i : Nat} (hu : i < u.length) (hv : i < v.length) :
    bitAt (vxor u v) i = Bool.xor (bitAt u i) (bitAt v i) := by
  simp [bitAt, vxor, hu, hv]

theorem bitAt_matVec {M : Matrix} {r : Nat} (h : r < M.length) (v : Bits) : bitAt (matVec M v) r = dot M[r] v := by
  simp [bitAt, matVec, h]

theorem bitAt_column {M : Matrix} {r : Nat} (h : r < M.length) (c : Nat) : bitAt (column M c) r = entry M r c := by
  simp [bitAt, column, entry, h]

theorem entry_transpose {cols c : Nat} (hc : c < cols) {M : Matrix} {r : Nat} (hr : r < M.length) :
    entry (transpose cols M) c r = entry M r c := by
  rw [entry_of_lt (by simpa using hc)]
  simpa [transpose] using bitAt_column hr c

theorem entry_identity {m r c : Nat} (hr : r < m) (hc : c < m) : entry (identity m) r c = decide (c = r) := by
  rw [entry_of_lt (by simpa using hr)]
  simpa [identity] using bitAt_onehot hc r

theorem entry_hcat_left {A B : Matrix} {r c : Nat} (hA : r < A.length) (hB : r < B.length) (hc : c < A[r].length) :
    entry (hcat A B) r c = entry A r c := by
  rw [entry_of_lt (by simp; omega), entry_of_lt hA]
  simpa [hcat] using bitAt_append_left hc

theorem entry_hcat_right {A B : Matrix} {r c : Nat} (hA : r < A.length) (hB : r < B.length) (hc : A[r].length ≤ c) :
    entry (hcat A B) r c = entry B r (c - A[r].length) := by
  rw [entry_of_lt (by simp; omega), entry_of_lt hB]
  simpa [hcat] using bitAt_append_right hc

/-! ### XOR of vectors -/

theorem vxor_comm (u v : Bits) : vxor u v = vxor v u := by
  induction u generalizing v with
  | nil => simp [vxor]
  | cons a u ih =>
    cases v with
    | nil => simp [vxor]
    | cons b v => simpa [vxor, Bool.xor_comm a b] using ih v

theorem vxor_assoc (u v w : Bits) : vxor (vxor u v) w = vxor u (vxor v w) := by
  induction u generalizing v w with
  | nil => simp [vxor]
  | cons a u ih => cases v <;> cases w <;> simp_all [vxor]

theorem vxor_zeros (u : Bits) : vxor u (zeros u.length) = u := by
  induction u with
  | nil => rfl
  | cons a u ih => simpa [vxor, zeros, List.replicate_succ] using ih

theorem vxor_self (u : Bits) : vxor u u = zeros u.length := by
  induction u with
  | nil => rfl
  | cons a u ih => simp [vxor, zeros, List.replicate_succ] at ih ⊢

/-- Adding a vector twice restores the word. -/
theorem vxor_vxor_cancel {u v : Bits} (h : u.length = v.length) : vxor (vxor u v) v = u := by
  rw [vxor_assoc, vxor_self, ← h, vxor_zeros]

/-- A XOR is zero exactly when the two vectors are equal. -/
theorem vxor_eq_zeros {u v : Bits} (h : u.length = v.length) : vxor u v = zeros u.length ↔ u = v := by
  constructor
  · intro hz
    have := vxor_vxor_cancel h
    rw [hz, vxor_comm, h, vxor_zeros] at this
    exact this.symm
  · rintro rfl
    exact vxor_self u

/-! ### Inner products and matrix products are linear (R52) -/

theorem xorAll_zipWith_xor {u v : Bits} (h : u.length = v.length) :
    xorAll (List.zipWith Bool.xor u v) = Bool.xor (xorAll u) (xorAll v) := by
  induction u generalizing v with
  | nil => cases v <;> simp_all [xorAll]
  | cons a u ih =>
    cases v with
    | nil => simp at h
    | cons b v =>
      have := ih (v := v) (by simpa using h)
      simp only [List.zipWith_cons_cons, xorAll, this]
      cases a <;> cases b <;> cases xorAll u <;> cases xorAll v <;> rfl

@[simp] theorem dot_nil_left (v : Bits) : dot [] v = false := rfl

@[simp] theorem dot_nil_right (u : Bits) : dot u [] = false := by simp [dot, xorAll]

@[simp] theorem dot_cons (a b : Bool) (u v : Bits) : dot (a :: u) (b :: v) = Bool.xor (a && b) (dot u v) := rfl

theorem dot_vxor (row : Bits) {u v : Bits} (h : u.length = v.length) :
    dot row (vxor u v) = Bool.xor (dot row u) (dot row v) := by
  induction row generalizing u v with
  | nil => rfl
  | cons a row ih =>
    cases u with
    | nil =>
      obtain rfl : v = [] := List.length_eq_zero_iff.mp h.symm
      simp [vxor]
    | cons b u =>
      cases v with
      | nil => simp at h
      | cons c v =>
        have := ih (u := u) (v := v) (by simpa using h)
        simp only [vxor, List.zipWith_cons_cons, dot_cons] at this ⊢
        rw [this]
        cases a <;> cases b <;> cases c <;> cases dot row u <;> cases dot row v <;> rfl

theorem dot_zeros (row : Bits) (L : Nat) : dot row (zeros L) = false := by
  induction row generalizing L with
  | nil => rfl
  | cons a row ih =>
    cases L with
    | zero => simp [zeros]
    | succ L => simpa [zeros, List.replicate_succ] using ih L

theorem dot_comm (u v : Bits) : dot u v = dot v u := by
  induction u generalizing v with
  | nil => simp
  | cons a u ih => cases v <;> simp [Bool.and_comm, ih]

theorem dot_append {u v x y : Bits} (h : u.length = x.length) : dot (u ++ v) (x ++ y) = Bool.xor (dot u x) (dot v y) := by
  induction u generalizing x with
  | nil => cases x <;> simp_all
  | cons a u ih =>
    cases x with
    | nil => simp at h
    | cons b x => simp [ih (x := x) (by simpa using h)]

theorem matVec_vxor (M : Matrix) {u v : Bits} (h : u.length = v.length) :
    matVec M (vxor u v) = vxor (matVec M u) (matVec M v) := by
  induction M with
  | nil => rfl
  | cons row M ih =>
    simp only [matVec, List.map_cons, dot_vxor row h] at ih ⊢
    rw [ih]
    rfl

theorem matVec_zeros (M : Matrix) (L : Nat) : matVec M (zeros L) = zeros M.length := by
  induction M with
  | nil => rfl
  | cons row M ih => simpa [matVec, zeros, List.replicate_succ] using ⟨dot_zeros row L, ih⟩

/-- `onehot` as a shifted list: its first element apart. -/
theorem onehot_succ (n j : Nat) : onehot (n + 1) j = decide (0 = j) :: (List.range n).map (fun i => decide (i + 1 = j)) := by
  simp [onehot, List.range_succ_eq_map, Function.comp_def]

theorem dot_onehot (row : Bits) {j : Nat} (h : j < row.length) : dot row (onehot row.length j) = bitAt row j := by
  induction row generalizing j with
  | nil => simp at h
  | cons a row ih =>
    cases j with
    | zero =>
      have hz : (List.range row.length).map (fun i => decide (i + 1 = 0)) = zeros row.length := by
        simp [zeros]
      simp only [List.length_cons, onehot_succ, hz, dot_cons, dot_zeros]
      simp
    | succ j =>
      have hs : (List.range row.length).map (fun i => decide (i + 1 = j + 1)) = onehot row.length j := by
        simp [onehot]
      simp only [List.length_cons, onehot_succ, hs, dot_cons, ih (by simpa using h)]
      simp

/-- A matrix times a one-hot vector is the matrix's column. -/
theorem matVec_onehot {M : Matrix} {n j : Nat} (hrow : ∀ row ∈ M, row.length = n) (h : j < n) :
    matVec M (onehot n j) = column M j := by
  refine List.map_congr_left fun row hmem => ?_
  have hl := hrow row hmem
  rw [← hl]
  exact dot_onehot row (by omega)

theorem orAll_eq_false {v : Bits} : orAll v = false ↔ v = zeros v.length := by
  induction v with
  | nil => simp [orAll, zeros]
  | cons a v ih => cases a <;> simp_all [orAll, zeros, List.replicate_succ]

theorem orAll_eq_true {v : Bits} : orAll v = true ↔ ∃ i, i < v.length ∧ bitAt v i = true := by
  induction v with
  | nil => simp [orAll]
  | cons a v ih =>
    simp only [orAll, Bool.or_eq_true, ih, List.length_cons]
    constructor
    · rintro (rfl | ⟨i, hi, hb⟩)
      · exact ⟨0, by omega, by simp⟩
      · exact ⟨i + 1, by omega, by simpa using hb⟩
    · rintro ⟨i, hi, hb⟩
      cases i with
      | zero => exact .inl (by simpa using hb)
      | succ i => exact .inr ⟨i, by omega, by simpa using hb⟩

/-! ### Integers and vectors -/

theorem portInt_lt (v : Bits) : portInt v < 2 ^ v.length := by
  induction v with
  | nil => simp [portInt]
  | cons b v ih => cases b <;> simp [portInt, pow_succ] <;> omega

theorem ofPortInt_succ (L x : Nat) : ofPortInt (L + 1) x = (x % 2 == 1) :: ofPortInt L (x / 2) := by
  simp [ofPortInt, List.range_succ_eq_map, Function.comp_def, Nat.div_div_eq_div_mul, pow_succ, Nat.mul_comm]

/-- Reading the number a vector was made of gives it back. -/
theorem portInt_ofPortInt {L x : Nat} (h : x < 2 ^ L) : portInt (ofPortInt L x) = x := by
  induction L generalizing x with
  | zero => simp_all [portInt, ofPortInt]
  | succ L ih =>
    rw [ofPortInt_succ, portInt, ih (by rw [pow_succ] at h; omega)]
    rcases Nat.mod_two_eq_zero_or_one x with h0 | h1
    · simp [h0]; omega
    · simp [h1]; omega

/-- Making a vector of the number a vector holds gives it back. -/
theorem ofPortInt_portInt (v : Bits) : ofPortInt v.length (portInt v) = v := by
  induction v with
  | nil => rfl
  | cons b v ih =>
    have h2 : (b.toNat + 2 * portInt v) / 2 = portInt v := by have := b.toNat_le; omega
    have h1 : ((b.toNat + 2 * portInt v) % 2 == 1) = b := by cases b <;> simp
    rw [List.length_cons, ofPortInt_succ, portInt, h1, h2, ih]

theorem portInt_append (u v : Bits) : portInt (u ++ v) = portInt u + 2 ^ u.length * portInt v := by
  induction u with
  | nil => simp [portInt]
  | cons b u ih => simp only [List.cons_append, portInt, ih, List.length_cons, pow_succ]; ring

theorem colval_lt (s : Bits) : colval s < 2 ^ s.length := by
  induction s with
  | nil => simp [colval]
  | cons b s ih => cases b <;> simp [colval, pow_succ] <;> omega

end Sys2Proof
end

