-- ==== Sys2Proof/Laws/State.lean ====
section
/-! SUPPORT. One lemma per field per update of State, and what each update leaves of the output ports. -/

namespace Sys2Proof.Machine

variable (s : State) (v : Bits) (val : Value) (f : Failure) (nbits w : Nat)

/-! ### A fresh instance -/

@[simp] theorem State.fresh_k (k : Nat) (m : Mode) : (State.fresh k m).k = k := rfl
@[simp] theorem State.fresh_mode (k : Nat) (m : Mode) : (State.fresh k m).mode = m := rfl
@[simp] theorem State.fresh_encMsg (k : Nat) (m : Mode) : (State.fresh k m).encMsg = zeros k := rfl
@[simp] theorem State.fresh_extCwIn (k : Nat) (m : Mode) : (State.fresh k m).extCwIn = zeros (codeLen k) := rfl
@[simp] theorem State.fresh_synCwIn (k : Nat) (m : Mode) : (State.fresh k m).synCwIn = zeros (codeLen k) := rfl
@[simp] theorem State.fresh_posSyndrome (k : Nat) (m : Mode) : (State.fresh k m).posSyndrome = zeros (minimalP k) := rfl
@[simp] theorem State.fresh_corCwIn (k : Nat) (m : Mode) : (State.fresh k m).corCwIn = zeros (codeLen k) := rfl
@[simp] theorem State.fresh_pending (k : Nat) (m : Mode) : (State.fresh k m).pending = [] := rfl
@[simp] theorem State.fresh_outcomes (k : Nat) (m : Mode) : (State.fresh k m).outcomes = [] := rfl
@[simp] theorem State.fresh_runFault (k : Nat) (m : Mode) : (State.fresh k m).runFault = none := rfl
@[simp] theorem State.fresh_posDraw (k : Nat) (m : Mode) : (State.fresh k m).posDraw = 0 := rfl

/-! ### Driving `hamming_encoder.msg` -/

@[simp] theorem State.driveEnc_k : (s.driveEnc v).k = s.k := rfl
@[simp] theorem State.driveEnc_mode : (s.driveEnc v).mode = s.mode := rfl
@[simp] theorem State.driveEnc_encMsg : (s.driveEnc v).encMsg = v := rfl
@[simp] theorem State.driveEnc_extCwIn : (s.driveEnc v).extCwIn = s.extCwIn := rfl
@[simp] theorem State.driveEnc_synCwIn : (s.driveEnc v).synCwIn = s.synCwIn := rfl
@[simp] theorem State.driveEnc_posSyndrome : (s.driveEnc v).posSyndrome = s.posSyndrome := rfl
@[simp] theorem State.driveEnc_corCwIn : (s.driveEnc v).corCwIn = s.corCwIn := rfl
@[simp] theorem State.driveEnc_pending : (s.driveEnc v).pending = s.pending := rfl
@[simp] theorem State.driveEnc_outcomes : (s.driveEnc v).outcomes = s.outcomes := rfl
@[simp] theorem State.driveEnc_runFault : (s.driveEnc v).runFault = s.runFault := rfl
@[simp] theorem State.driveEnc_posDraw : (s.driveEnc v).posDraw = s.posDraw := rfl

/-! ### Driving `hamming_extract.cw_in` -/

@[simp] theorem State.driveExt_k : (s.driveExt v).k = s.k := rfl
@[simp] theorem State.driveExt_mode : (s.driveExt v).mode = s.mode := rfl
@[simp] theorem State.driveExt_encMsg : (s.driveExt v).encMsg = s.encMsg := rfl
@[simp] theorem State.driveExt_extCwIn : (s.driveExt v).extCwIn = v := rfl
@[simp] theorem State.driveExt_synCwIn : (s.driveExt v).synCwIn = s.synCwIn := rfl
@[simp] theorem State.driveExt_posSyndrome : (s.driveExt v).posSyndrome = s.posSyndrome := rfl
@[simp] theorem State.driveExt_corCwIn : (s.driveExt v).corCwIn = s.corCwIn := rfl
@[simp] theorem State.driveExt_pending : (s.driveExt v).pending = s.pending := rfl
@[simp] theorem State.driveExt_outcomes : (s.driveExt v).outcomes = s.outcomes := rfl
@[simp] theorem State.driveExt_runFault : (s.driveExt v).runFault = s.runFault := rfl
@[simp] theorem State.driveExt_posDraw : (s.driveExt v).posDraw = s.posDraw := rfl

/-! ### Driving `hamming_syndrome_calc.cw_in` -/

@[simp] theorem State.driveSyn_k : (s.driveSyn v).k = s.k := rfl
@[simp] theorem State.driveSyn_mode : (s.driveSyn v).mode = s.mode := rfl
@[simp] theorem State.driveSyn_encMsg : (s.driveSyn v).encMsg = s.encMsg := rfl
@[simp] theorem State.driveSyn_extCwIn : (s.driveSyn v).extCwIn = s.extCwIn := rfl
@[simp] theorem State.driveSyn_synCwIn : (s.driveSyn v).synCwIn = v := rfl
@[simp] theorem State.driveSyn_posSyndrome : (s.driveSyn v).posSyndrome = s.posSyndrome := rfl
@[simp] theorem State.driveSyn_corCwIn : (s.driveSyn v).corCwIn = s.corCwIn := rfl
@[simp] theorem State.driveSyn_pending : (s.driveSyn v).pending = s.pending := rfl
@[simp] theorem State.driveSyn_outcomes : (s.driveSyn v).outcomes = s.outcomes := rfl
@[simp] theorem State.driveSyn_runFault : (s.driveSyn v).runFault = s.runFault := rfl
@[simp] theorem State.driveSyn_posDraw : (s.driveSyn v).posDraw = s.posDraw := rfl

/-! ### Driving `error_position_decoder.syndrome` -/

@[simp] theorem State.drivePos_k : (s.drivePos v).k = s.k := rfl
@[simp] theorem State.drivePos_mode : (s.drivePos v).mode = s.mode := rfl
@[simp] theorem State.drivePos_encMsg : (s.drivePos v).encMsg = s.encMsg := rfl
@[simp] theorem State.drivePos_extCwIn : (s.drivePos v).extCwIn = s.extCwIn := rfl
@[simp] theorem State.drivePos_synCwIn : (s.drivePos v).synCwIn = s.synCwIn := rfl
@[simp] theorem State.drivePos_posSyndrome : (s.drivePos v).posSyndrome = v := rfl
@[simp] theorem State.drivePos_corCwIn : (s.drivePos v).corCwIn = s.corCwIn := rfl
@[simp] theorem State.drivePos_pending : (s.drivePos v).pending = s.pending := rfl
@[simp] theorem State.drivePos_outcomes : (s.drivePos v).outcomes = s.outcomes := rfl
@[simp] theorem State.drivePos_runFault : (s.drivePos v).runFault = s.runFault := rfl
@[simp] theorem State.drivePos_posDraw : (s.drivePos v).posDraw = s.posDraw + 1 := rfl

/-! ### Driving `hamming_corrector.cw_in` -/

@[simp] theorem State.driveCor_k : (s.driveCor v).k = s.k := rfl
@[simp] theorem State.driveCor_mode : (s.driveCor v).mode = s.mode := rfl
@[simp] theorem State.driveCor_encMsg : (s.driveCor v).encMsg = s.encMsg := rfl
@[simp] theorem State.driveCor_extCwIn : (s.driveCor v).extCwIn = s.extCwIn := rfl
@[simp] theorem State.driveCor_synCwIn : (s.driveCor v).synCwIn = s.synCwIn := rfl
@[simp] theorem State.driveCor_posSyndrome : (s.driveCor v).posSyndrome = s.posSyndrome := rfl
@[simp] theorem State.driveCor_corCwIn : (s.driveCor v).corCwIn = v := rfl
@[simp] theorem State.driveCor_pending : (s.driveCor v).pending = s.pending := rfl
@[simp] theorem State.driveCor_outcomes : (s.driveCor v).outcomes = s.outcomes := rfl
@[simp] theorem State.driveCor_runFault : (s.driveCor v).runFault = s.runFault := rfl
@[simp] theorem State.driveCor_posDraw : (s.driveCor v).posDraw = s.posDraw := rfl

/-! ### Recording an `ok` outcome -/

@[simp] theorem State.record_k : (s.record val).k = s.k := rfl
@[simp] theorem State.record_mode : (s.record val).mode = s.mode := rfl
@[simp] theorem State.record_encMsg : (s.record val).encMsg = s.encMsg := rfl
@[simp] theorem State.record_extCwIn : (s.record val).extCwIn = s.extCwIn := rfl
@[simp] theorem State.record_synCwIn : (s.record val).synCwIn = s.synCwIn := rfl
@[simp] theorem State.record_posSyndrome : (s.record val).posSyndrome = s.posSyndrome := rfl
@[simp] theorem State.record_corCwIn : (s.record val).corCwIn = s.corCwIn := rfl
@[simp] theorem State.record_pending : (s.record val).pending = s.pending := rfl
@[simp] theorem State.record_outcomes : (s.record val).outcomes = s.outcomes ++ [.ok val] := rfl
@[simp] theorem State.record_runFault : (s.record val).runFault = s.runFault := rfl
@[simp] theorem State.record_posDraw : (s.record val).posDraw = s.posDraw := rfl

/-! ### Raising a failure -/

@[simp] theorem State.fail_k : (s.fail f).k = s.k := rfl
@[simp] theorem State.fail_mode : (s.fail f).mode = s.mode := rfl
@[simp] theorem State.fail_encMsg : (s.fail f).encMsg = s.encMsg := rfl
@[simp] theorem State.fail_extCwIn : (s.fail f).extCwIn = s.extCwIn := rfl
@[simp] theorem State.fail_synCwIn : (s.fail f).synCwIn = s.synCwIn := rfl
@[simp] theorem State.fail_posSyndrome : (s.fail f).posSyndrome = s.posSyndrome := rfl
@[simp] theorem State.fail_corCwIn : (s.fail f).corCwIn = s.corCwIn := rfl
@[simp] theorem State.fail_pending : (s.fail f).pending = s.pending := rfl
@[simp] theorem State.fail_outcomes : (s.fail f).outcomes = s.outcomes ++ [.fail f] := rfl
@[simp] theorem State.fail_runFault : (s.fail f).runFault = f.mark s.runFault := rfl
@[simp] theorem State.fail_posDraw : (s.fail f).posDraw = s.posDraw := rfl

/-! ### The environment's next operation -/

@[simp] theorem State.withFetchWord_pending :
    (s.withFetchWord nbits w).pending = tableDescriptor s.k nbits w :: s.pending := rfl
@[simp] theorem State.withFetchWord_k : (s.withFetchWord nbits w).k = s.k := rfl
@[simp] theorem State.withFetchWord_mode : (s.withFetchWord nbits w).mode = s.mode := rfl
@[simp] theorem State.withFetchWord_outcomes : (s.withFetchWord nbits w).outcomes = s.outcomes := rfl

end Sys2Proof.Machine
end

