-- ==== Sys2Proof/Laws/Ops.lean ====
section
/-! SUPPORT. What each shared operation can do, said once: the guard of an evaluation, the fault mark, the outcome of
the corrector, and the decoder. -/

namespace Sys2Proof.Machine

/-- An evaluation answers a next state exactly on an operand of the right length of an existing instance. -/
theorem evaluate_eq_next {len : Nat} {v : Bits} {s r t : State} :
    evaluate len v s r = .next t ↔ s.k ≠ 0 ∧ v.length = len ∧ r = t := by
  unfold evaluate
  by_cases hk : s.k = 0
  · simp [hk]
  · by_cases hl : v.length = len <;> simp [hk, hl]

/-- The evaluation of a right operand on an existing instance. -/
theorem evaluate_of_valid {len : Nat} {v : Bits} {s : State} (hk : 1 ≤ s.k) (hl : v.length = len) (r : State) :
    evaluate len v s r = .next r := evaluate_eq_next.mpr ⟨by omega, hl, rfl⟩

/-- An operand of the wrong length is refused before anything is evaluated (R98). -/
theorem evaluate_of_wrong_length {len : Nat} {v : Bits} {s : State} (hk : 1 ≤ s.k) (hl : v.length ≠ len) (r : State) :
    evaluate len v s r = .refused .validationError := by
  simp [evaluate, hl, Nat.one_le_iff_ne_zero.mp hk]

/-- No evaluation stops with a fault. -/
theorem evaluate_ne_fault (len : Nat) (v : Bits) (s r : State) (f : Fault) : evaluate len v s r ≠ .fault f := by
  unfold evaluate
  split
  · simp
  · split <;> simp

/-- A fault mark is never taken back (R126). -/
theorem Failure.mark_isSome (f : Failure) {m : Option Fault} (h : m.isSome) : (f.mark m).isSome := by
  cases f <;> simp [Failure.mark, h]

/-- The outcomes `checkCorrect` can have, one per row of the table of R88. -/
theorem checkCorrect_cases (k : Nat) (mode : Mode) (w : Bits) :
    (synNonzeroFlag (syndromeOf k w) = false ∧ checkCorrect k mode w = .ok w) ∨
    (synNonzeroFlag (syndromeOf k w) = true ∧ mode = .detect ∧ checkCorrect k mode w = .error .bitError) ∨
    (synNonzeroFlag (syndromeOf k w) = true ∧ mode = .correct ∧
      ∃ j, positionOf k (syndromeOf k w) = some j ∧ checkCorrect k mode w = .ok (vxor w (onehot (codeLen k) j))) ∨
    (synNonzeroFlag (syndromeOf k w) = true ∧ mode = .correct ∧
      positionOf k (syndromeOf k w) = none ∧ checkCorrect k mode w = .error .noColumnMatch) := by
  unfold checkCorrect
  cases hz : synNonzeroFlag (syndromeOf k w)
  · simp [hz]
  · cases mode
    · cases hp : positionOf k (syndromeOf k w) <;> simp [hz, hp]
    · simp [hz]

/-- The state after an evaluation of `COR` in terms of its outcome. -/
theorem correctorOutcome_cases (s : State) (r : Except Failure Bits) :
    (∃ w, r = .ok w ∧ s.correctorOutcome r = s.record (.corrected w)) ∨
    (∃ f, r = .error f ∧ s.correctorOutcome r = s.fail f) := by
  cases r with
  | ok w => exact .inl ⟨w, rfl, rfl⟩
  | error f => exact .inr ⟨f, rfl, rfl⟩

/-- Everything an operation can do when it answers a next state: the operand has its exact length, it stands on the
unit's input port, and one outcome joins the run. -/
theorem exec_next_cases {i : Instr} {s t : State} (h : exec i s = .next t) :
    s.k ≠ 0 ∧ i.operand.length = i.operandLen s.k ∧
    ((∃ m, i = .enc m ∧ t = (s.driveEnc m).record (.codeword (encodeWord s.k m))) ∨
     (∃ w, i = .ext w ∧ t = (s.driveExt w).record (.message (extractMessage s.k w))) ∨
     (∃ w, i = .syn w ∧
        t = (s.driveSyn w).record (.syndrome (syndromeOf s.k w) (synNonzeroFlag (syndromeOf s.k w)))) ∨
     (∃ v, i = .pos v ∧
        t = (s.drivePos v).record (.position (matchLines s.k v) (errValidFlag (matchLines s.k v))
              (errPosOut s.k (s.posDraw + 1) v))) ∨
     (∃ w, i = .cor w ∧ t = (s.driveCor w).correctorOutcome (checkCorrect s.k s.mode w))) := by
  cases i <;> obtain ⟨hk, hl, rfl⟩ := evaluate_eq_next.mp h <;> exact ⟨hk, hl, by simp⟩

/-- An elaboration that builds an instance builds a fresh one of a positive `k` (R63). -/
theorem elaborate_eq_ok {k : Int} {t : Option String} {s : State} (h : elaborate k t = .ok s) :
    1 ≤ k ∧ ∃ m, s = State.fresh k.toNat m := by
  unfold elaborate at h
  split at h
  · cases h
  · next m _ =>
    split at h
    · cases h
    · split at h
      · cases h
      · injection h with h
        exact ⟨by omega, m, h.symm⟩

/-- What a step can do: nothing is left to apply, or the head of the run is decoded and executed. -/
theorem step_next_cases {s t : State} (h : step s = .next t) :
    (s.pending = [] ∧ t = s) ∨
    (∃ d rest i, s.pending = d :: rest ∧ decode s.k d = .ok i ∧ exec i { s with pending := rest } = .next t) := by
  unfold step at h
  cases hp : s.pending with
  | nil =>
    rw [hp] at h
    exact .inl ⟨rfl, by simpa using h.symm⟩
  | cons d rest =>
    rw [hp] at h
    cases hd : decode s.k d with
    | error e => simp [hd] at h
    | ok i => exact .inr ⟨d, rest, i, rfl, hd, by simpa [hd] using h⟩

end Sys2Proof.Machine
end

