-- ==== Sys2Proof/Laws/Params.lean ====
section
/-! SUPPORT. Laws of the search loop and the shapes of the constant matrices. -/

namespace Sys2Proof

/-- The loop answers a candidate at or after its start, and none before the answer satisfies the test. -/
theorem leastFrom_minimal (f : Nat → Bool) (fuel start : Nat) :
    start ≤ leastFrom f fuel start ∧ ∀ i, start ≤ i → i < leastFrom f fuel start → f i = false := by
  induction fuel generalizing start with
  | zero => exact ⟨le_rfl, fun i h h' => by simp [leastFrom] at h'; omega⟩
  | succ fuel ih =>
    unfold leastFrom
    by_cases hs : f start
    · simp only [hs, if_true]
      exact ⟨le_rfl, fun i h h' => by omega⟩
    · simp only [hs]
      obtain ⟨h1, h2⟩ := ih (start + 1)
      refine ⟨by simp; omega, fun i hi hlt => ?_⟩
      by_cases he : i = start
      · subst he; simpa using hs
      · exact h2 i (by omega) (by simpa using hlt)

/-- The loop finds a candidate when there is one within its fuel. -/
theorem leastFrom_found {f : Nat → Bool} {fuel start i : Nat} (hi : start ≤ i) (hfuel : i < start + fuel)
    (hf : f i = true) : f (leastFrom f fuel start) = true := by
  induction fuel generalizing start with
  | zero => omega
  | succ fuel ih =>
    unfold leastFrom
    by_cases hs : f start
    · simp [hs]
    · have : i ≠ start := by rintro rfl; exact hs hf
      simpa [hs] using ih (start := start + 1) (by omega) (by omega)

@[simp] theorem length_genMatrix (k : Nat) : (genMatrix k).length = codeLen k := by simp [genMatrix]

@[simp] theorem length_checkMatrix (k : Nat) : (checkMatrix k).length = minimalP k := by simp [checkMatrix]

/-- Every rendered candidate has `p` elements. -/
theorem length_of_mem_parityMatrix {k : Nat} {row : Bits} (h : row ∈ parityMatrix k) : row.length = minimalP k := by
  obtain ⟨x, -, rfl⟩ := List.mem_map.mp h
  simp

theorem mem_cand {p x : Nat} : x ∈ cand p ↔ x < 2 ^ p ∧ 1 ≤ x ∧ weight (binP p x) ≠ 1 := by
  simp [cand, Bool.and_eq_true]

end Sys2Proof
end

