-- ==== Sys2Proof/Laws/PerInstr.lean ====
section
/-! SUPPORT. One lemma per operation for each family of LAWS.json. -/

namespace Sys2Proof.Laws.EncodeWidth

/-- The width of an encoded operation is three identifier bits and the operand, and for a well-formed operation
exactly `3 + L` (R43, R44). -/
def Statement (i : Instr) : Prop :=
  (encode i).length = 3 + i.operand.length ∧
    ∀ k, wellFormed k i = true → (encode i).length = 3 + i.operandLen k

theorem of_any (i : Instr) : Statement i := by
  have h : (encode i).length = 3 + i.operand.length := by simp [encode]
  refine ⟨h, fun k hw => ?_⟩
  rw [h]
  simp only [wellFormed, decide_eq_true_eq] at hw
  omega

theorem enc (msg : Bits) : Statement (.enc msg) := of_any _
theorem ext (cwIn : Bits) : Statement (.ext cwIn) := of_any _
theorem syn (cwIn : Bits) : Statement (.syn cwIn) := of_any _
theorem pos (syndrome : Bits) : Statement (.pos syndrome) := of_any _
theorem cor (cwIn : Bits) : Statement (.cor cwIn) := of_any _

end Sys2Proof.Laws.EncodeWidth
end

