-- ==== Sys2Proof/Laws/Script.lean ====
section
/-! SUPPORT. What an evaluation in a script answers, and what each update of the bench leaves of its marks. -/

namespace Sys2Proof.Machine

/-- An evaluation whose outcome is `ok` in a script. -/
theorem evaluateOn_of_ok {s t : State} {i : Instr} {o : List OpOutcome} {v : Value} (h : exec i s = .next t)
    (ho : t.outcomes = o ++ [.ok v]) : evaluateOn s i = .ok t v := by
  simp [evaluateOn, h, ho]

/-- An evaluation whose outcome is a failure in a script. -/
theorem evaluateOn_of_fail {s t : State} {i : Instr} {o : List OpOutcome} {f : Failure} (h : exec i s = .next t)
    (ho : t.outcomes = o ++ [.fail f]) : evaluateOn s i = .fail t f := by
  simp [evaluateOn, h, ho]

variable (b : Bench) (x : String) (f : Failure) (vs : List (String × Bits))

@[simp] theorem Bench.unbind_faulted : (b.unbind x).faulted = b.faulted := rfl
@[simp] theorem Bench.unbind_inst : (b.unbind x).inst = b.inst := rfl
@[simp] theorem Bench.bind_faulted : (b.bind x vs).faulted = b.faulted := rfl
@[simp] theorem Bench.bind_inst : (b.bind x vs).inst = b.inst := rfl
@[simp] theorem Bench.bind_lastFailure : (b.bind x vs).lastFailure = b.lastFailure := rfl
@[simp] theorem Bench.failed_faulted : (b.failed x f).faulted = (b.faulted || (f.mark none).isSome) := rfl
@[simp] theorem Bench.failed_lastFailure : (b.failed x f).lastFailure = some f := rfl
@[simp] theorem Bench.markWrong_faulted : b.markWrong.faulted = b.faulted := rfl
@[simp] theorem Bench.markWrong_inst : b.markWrong.inst = b.inst := rfl
@[simp] theorem Bench.markWrong_wrong : b.markWrong.wrong = true := rfl
@[simp] theorem Bench.settle_faulted : b.settle.faulted = b.faulted := rfl
@[simp] theorem Bench.settle_inst : b.settle.inst = b.inst := rfl
@[simp] theorem Bench.settle_names : b.settle.names = b.names := rfl
@[simp] theorem Bench.settle_lastFailure : b.settle.lastFailure = none := rfl
@[simp] theorem Bench.settle_unexpected : b.settle.unexpected = (b.unexpected || b.lastFailure.isSome) := rfl

end Sys2Proof.Machine
end

