-- ==== Sys2Proof/Tests/Slice0.lean ====
section
/-! SUPPORT. Tests of the model: words and results the spec writes out, and a witness for every statement with
hypotheses. Expected values come from the tables and examples of spec/ named beside them. -/

namespace Sys2Proof.Tests

open Sys2Proof.Machine

/-- A vector in string form, element 0 leftmost (R35). -/
def str (s : String) : Bits := s.toList.map (fun c => decide (c = '1'))

/-- The outcomes of one operation on a fresh instance. -/
def outcomesOf (k : Nat) (m : Mode) (i : Instr) : List OpOutcome :=
  match exec i (State.fresh k m) with
  | .next t => t.outcomes
  | .fault _ => []
  | .refused _ => []

/-! ### Constants (40_code_construction.md R66; 95_test_vectors.md V-PAR) -/

theorem test_sizes :
    [1, 2, 3, 4, 5, 11, 12].map (fun k => (minimalP k, codeLen k, posWidth k)) =
      [(2, 3, 2), (3, 5, 3), (3, 6, 3), (3, 7, 3), (4, 9, 4), (4, 15, 4), (5, 17, 5)] := by decide

theorem test_generator_k4 :
    genMatrix 4 = ["1000", "0100", "0010", "0001", "0111", "1011", "1101"].map str := by decide

theorem test_check_k5 :
    checkMatrix 5 = ["000011000", "011100100", "101100010", "110110001"].map str := by decide

theorem test_colVals_k2 : colVals 2 = [3, 5, 4, 2, 1] := by decide

/-! ### Well-formedness and decoding (95_test_vectors.md V-FAIL and section 3; 30_encoding.md R43) -/

theorem test_wellFormed_refuses_short_message : wellFormed 4 (.enc (str "101")) = false := by decide
theorem test_wellFormed_refuses_short_ext : wellFormed 4 (.ext (str "101101")) = false := by decide
theorem test_wellFormed_refuses_long_syn : wellFormed 4 (.syn (str "10110100")) = false := by decide
theorem test_wellFormed_refuses_word_as_syndrome : wellFormed 4 (.pos (str "1011010")) = false := by decide
theorem test_wellFormed_refuses_message_as_word : wellFormed 4 (.cor (str "1011")) = false := by decide

-- the bits of each word, bit 0 first: identifier 2..0, then element i on bit 3 + i
theorem test_decode_enc : decode 4 (str "0001011") = .ok (.enc (str "1011")) := by decide
theorem test_decode_ext : decode 4 (str "1001011010") = .ok (.ext (str "1011010")) := by decide
theorem test_decode_syn : decode 4 (str "0101001010") = .ok (.syn (str "1001010")) := by decide
theorem test_decode_pos : decode 4 (str "110110") = .ok (.pos (str "110")) := by decide
theorem test_decode_cor : decode 4 (str "0011001010") = .ok (.cor (str "1001010")) := by decide
theorem test_decode_integers :
    decode 2 (descriptorOf 8 0x64) = .ok (.cor (str "00110")) ∧
    decode 1 (descriptorOf 6 0x39) = .ok (.ext (str "111")) := by decide
theorem test_decode_refusals :
    decode 4 (descriptorOf 8 0x68) = .error .validationError ∧
    decode 4 (descriptorOf 4 0x0a) = .error .validationError ∧
    decode 4 (descriptorOf 10 0x16e) = .error (.noSuchOperation 6) ∧
    decode 4 (descriptorOf 10 0x16f) = .error (.noSuchOperation 7) ∧ decode 4 [] = .error .validationError := by
  decide
theorem test_encode_word : portInt (encode (.cor (str "1001010"))) = 0x14c := by decide
theorem test_table_words :
    [0, 1, 2, 3, 4, 5].map (fun w => (decodeTableWord 8 w).isSome) = [true, true, true, true, true, false] := by
  decide

/-! ### The operations (41_encoder.md R70; V-EXT, V-SYN, V-POS, V-COR-1, V-COR-2, V-COR-4) -/

theorem test_enc : outcomesOf 4 .correct (.enc (str "1011")) = [.ok (.codeword (str "1011010"))] := by decide
theorem test_enc_shortened : outcomesOf 5 .correct (.enc (str "00001")) = [.ok (.codeword (str "000011001"))] := by
  decide
theorem test_ext_ignores_parity : outcomesOf 4 .detect (.ext (str "1011011")) = [.ok (.message (str "1011"))] := by
  decide
theorem test_ext_passes_errors : outcomesOf 4 .correct (.ext (str "0011010")) = [.ok (.message (str "0011"))] := by
  decide
theorem test_syn_msb_first : outcomesOf 4 .correct (.syn (str "0000100")) = [.ok (.syndrome (str "100") true)] := by
  decide
theorem test_syn_zero : outcomesOf 4 .detect (.syn (str "1010101")) = [.ok (.syndrome (str "000") false)] := by decide
theorem test_pos_first_parity :
    outcomesOf 4 .correct (.pos (str "100")) = [.ok (.position (str "0000100") true (str "001"))] := by decide
theorem test_pos_none_is_ok :
    (matchLines 2 (str "110"), errValidFlag (matchLines 2 (str "110")), positionOf 2 (str "110")) =
      (str "00000", false, none) := by decide
theorem test_cor_repairs : outcomesOf 4 .correct (.cor (str "1001010")) = [.ok (.corrected (str "1011010"))] := by
  decide
theorem test_cor_misdecodes : outcomesOf 4 .correct (.cor (str "0111010")) = [.ok (.corrected (str "0101010"))] := by
  decide
theorem test_cor_detect : outcomesOf 4 .detect (.cor (str "0011010")) = [.fail .bitError] := by decide
theorem test_cor_no_column : outcomesOf 2 .correct (.cor (str "00110")) = [.fail .noColumnMatch] := by decide
theorem test_cor_ports :
    (cwOutPort 2 .correct (str "00110"), bitErrorPort 2 .correct (str "00110"), noMatchPort 2 .correct (str "00110")) =
      (str "00110", false, true) := by decide
theorem test_lut_k2 :
    lutTable 2 = [none, some 4, some 3, some 0, some 2, some 1, none, none] := by decide

/-! ### A step, elaboration, a script line -/

theorem test_step_runs_word :
    (match step (State.reset.withFetchWord 8 3) with | .next t => t.pending.length + t.outcomes.length | _ => 0) = 1 := by
  decide
-- R126, U1: an expected NoColumnMatch is expected, and the run is marked all the same
theorem test_expected_failure_still_marks :
    (match exec (.cor (str "00110")) (State.fresh 2 .correct) with
     | .next t => (goodRun [some .noColumnMatch] t.outcomes, safeRun [some .noColumnMatch] t, goodRun [none] t.outcomes)
     | _ => (false, true, true)) = (true, false, false) := by decide
theorem test_elaborate_invalid_mode : elaborate 0 (some "invalid") = .error .configurationError := by decide
theorem test_elaborate_zero : elaborate 0 none = .error .kBelowOne := by decide
theorem test_elaborate_negative : elaborate (-1) (some "DETECT") = .error .kBelowOne := by decide
theorem test_elaborate_reset : elaborate 4 none = .ok State.reset := by decide
theorem test_flip_line : flipBits (str "1011010") [2] = str "1001010" := by decide
theorem test_parse_flip :
    parseScript "r = FLIP c, 0, 1 ; directive" = some [.flip "r" (.name "c") [0, 1]] := by decide
theorem test_parse_list_form : parseScript "c = ENC [1,0,1,1]" = some [.op "c" .enc (.lit (str "1011"))] := by decide
theorem test_written_forms :
    (stringForm (str "1011010"), listText (str "1011"), hexForm (str "1011010"), hexForm (str "110011111")) =
      ("1011010", "[1,0,1,1]", "0x2d", "0x1f3") := by decide
theorem test_result_notation :
    (outcomesOf 4 .correct (.pos (str "110"))).map OpOutcome.text = ["some(2)"] ∧
      (outcomesOf 4 .correct (.syn (str "1001010"))).map OpOutcome.text = ["ok(110), syn_nonzero = 1"] ∧
      (outcomesOf 4 .correct (.syn (str "1111111"))).map OpOutcome.text = ["ok(000), syn_nonzero = 0"] ∧
      (outcomesOf 2 .correct (.cor (str "00110"))).map OpOutcome.text = ["fail(NoColumnMatch)"] := by decide
theorem test_parse_code : parseScript ".code k=4 mode=DETECT" = some [.code 4 (some "DETECT")] := by decide

end Sys2Proof.Tests
end

