-- ==== Sys2Proof/Tests/Witnesses.lean ====
section
/-! SUPPORT. For every statement with hypotheses, a concrete case that meets all of them together, clause by clause, at
a boundary where the clause has a range: the smallest instance `k = 1` (`n = 3`, `p = 2`), the first and last position,
and the shortened instance `k = 2` where a syndrome may match no column. -/

namespace Sys2Proof.Tests

open Sys2Proof.Machine

/-- The smallest instance in each mode. -/
def one (m : Mode) : State := State.fresh 1 m

/-- The smallest instance with one descriptor left to apply. -/
def oneWith (d : Descriptor) : State := { one .correct with pending := [d] }

theorem witness_ElaborationChecksModeThenSize :
    ("invalid" ≠ "CORRECT" ∧ "invalid" ≠ "DETECT") ∧ (0 : Int) < 1 ∧ 1 ≤ 1 := by decide

theorem witness_MinimalPIsLeast : 1 ≤ 1 ∧ 1 < minimalP 1 := by decide

theorem witness_ParityMatrixRowsRenderCandidates : 1 ≤ 1 ∧ 0 < 1 ∧ 1 < minimalP 1 := by decide

theorem witness_GeneratorMatrixEntries : 1 ≤ 1 ∧ 0 < 1 ∧ 1 < minimalP 1 ∧ genMatrix 1 ≠ [] := by decide

theorem witness_CheckMatrixEntries : 1 ≤ 1 ∧ 0 < 1 ∧ 1 < minimalP 1 ∧ checkMatrix 1 ≠ [] := by decide

theorem witness_ColumnValuesDistinctNonzero : 1 ≤ 1 ∧ perfect 1 = true ∧ perfect 2 = false ∧ 3 < 2 ^ minimalP 1 := by
  decide

theorem witness_CheckTimesGeneratorIsZero : 1 ≤ 1 ∧ 0 < 1 := by decide

theorem witness_CodeLengthStrictlyIncreases : 1 ≤ 1 ∧ 1 < 2 := by decide

theorem witness_MatrixProductElementwise :
    (∀ row ∈ ([[true, false]] : Matrix), row.length = ([true, true] : Bits).length) ∧
      0 < ([[true, false]] : Matrix).length := by decide

theorem witness_ColvalInvertsBinP : 1 < 2 ^ 1 := by decide

theorem witness_DecodeEncodeRoundTrip :
    wellFormed 1 (.pos [true, false]) = true ∧ decode 1 (str "110110") = .error .validationError ∧
      decode 1 (str "11010") = .ok (.pos [true, false]) := by decide

theorem witness_DescriptorLayout :
    wellFormed 1 (.cor (str "101")) = true ∧ 2 < Instr.operandLen 1 (.cor (str "101")) := by decide

theorem witness_StepRunsDecoded :
    (wellFormed (oneWith (encode (.enc [true]))).k (.enc [true]) = true ∧
      (oneWith (encode (.enc [true]))).pending = encode (.enc [true]) :: []) ∧
    ((oneWith (str "0001")).pending = str "0001" :: [] ∧
      decode (oneWith (str "0001")).k (str "0001") = .ok (.enc [true])) ∧
    ((oneWith (str "111")).pending = str "111" :: [] ∧
      decode (oneWith (str "111")).k (str "111") = .error (.noSuchOperation 7)) ∧
    ((oneWith (str "00011")).pending = str "00011" :: [] ∧
      decode (oneWith (str "00011")).k (str "00011") = .error .validationError) ∧
    (one .detect).pending = [] := by decide

theorem witness_CandidateIndexClosedForm : (cand 2)[0]? = some 3 ∧ (cand 4)[10]? = some 15 := by decide

theorem witness_OutputPortsFollowInputs :
    positionOf (one .correct).k (str "01") = some 2 ∧ (one .correct).mode = .correct ∧ (one .detect).mode = .detect ∧
      positionOf { one .correct with posSyndrome := str "01" }.k { one .correct with posSyndrome := str "01" }.posSyndrome
        = some 2 ∧ 2 < codeLen (one .correct).k := by decide

theorem witness_EncCompletesWithProduct : 1 ≤ (one .correct).k ∧ (str "1").length = (one .correct).k := by decide

theorem witness_ExtCompletesWithFirstElements :
    1 ≤ (one .detect).k ∧ (str "101").length = (one .detect).k + minimalP (one .detect).k ∧ 0 < (one .detect).k := by
  decide

theorem witness_SynCompletesWithProduct :
    1 ≤ (one .detect).k ∧ (str "101").length = (one .detect).k + minimalP (one .detect).k ∧
      1 < minimalP (one .detect).k := by decide

theorem witness_PosCompletesWithMatch_first :
    1 ≤ (one .correct).k ∧ (str "11").length = minimalP (one .correct).k ∧ 0 < codeLen (one .correct).k ∧
      column (checkMatrix (one .correct).k) 0 = str "11" := by decide

theorem witness_PosCompletesWithMatch_last :
    (str "01").length = minimalP (one .correct).k ∧ 2 < codeLen (one .correct).k ∧
      column (checkMatrix (one .correct).k) 2 = str "01" := by decide

theorem witness_CorOutcomeTable_zero :
    1 ≤ (one .detect).k ∧ (str "111").length = (one .detect).k + minimalP (one .detect).k ∧
      matVec (checkMatrix (one .detect).k) (str "111") = zeros (minimalP (one .detect).k) := by decide

theorem witness_CorOutcomeTable_column :
    (str "110").length = (one .correct).k + minimalP (one .correct).k ∧ (one .correct).mode = .correct ∧
      2 < codeLen (one .correct).k ∧
      column (checkMatrix (one .correct).k) 2 = matVec (checkMatrix (one .correct).k) (str "110") := by decide

theorem witness_CorOutcomeTable_noColumn :
    (str "00110").length = (State.fresh 2 .correct).k + minimalP (State.fresh 2 .correct).k ∧
      (State.fresh 2 .correct).mode = .correct ∧
      matVec (checkMatrix 2) (str "00110") ≠ zeros (minimalP 2) ∧
      ∀ j, j < codeLen 2 → column (checkMatrix 2) j ≠ matVec (checkMatrix 2) (str "00110") := by decide

theorem witness_CorOutcomeTable_detect :
    (str "110").length = (one .detect).k + minimalP (one .detect).k ∧ (one .detect).mode = .detect ∧
      matVec (checkMatrix (one .detect).k) (str "110") ≠ zeros (minimalP (one .detect).k) := by decide

theorem witness_OperationsCompleteExactlyWhenWellFormed :
    (1 ≤ (one .correct).k ∧ wellFormed (one .correct).k (.enc [true]) = true) ∧
      wellFormed (one .correct).k (.enc []) = false ∧ (State.fresh 0 .correct).k = 0 := by decide

theorem witness_OnlyCorFails : ∃ t, exec (.cor (str "110")) (one .detect) = .next t := ⟨_, rfl⟩

theorem witness_EvaluationFrame :
    ∃ t, exec (.cor (str "00110")) (State.fresh 2 .correct) = .next t ∧ t.runFault = some .noColumnMatch :=
  ⟨_, rfl, rfl⟩

theorem witness_OutcomeDependsOnOperandAndConstants :
    ∃ t t', (one .correct).k = (oneWith []).k ∧ (one .correct).mode = (oneWith []).mode ∧
      exec (.pos (str "00")) (one .correct) = .next t ∧ exec (.pos (str "00")) (oneWith []) = .next t' :=
  ⟨_, _, rfl, rfl, rfl, rfl⟩

theorem witness_MatchIsOneHotOrZero :
    1 ≤ 1 ∧ (str "01").length = minimalP 1 ∧ 1 < posWidth 1 ∧ errValidFlag (matchLines 1 (str "01")) = true ∧
      errValidFlag (matchLines 1 (str "00")) = false := by decide

theorem witness_PositionLookupClosedForm : 1 ≤ 2 ∧ (str "111").length = minimalP 2 := by decide

theorem witness_PositionNoneExactly :
    1 ≤ 1 ∧ (str "11").length = minimalP 1 ∧ perfect 1 = true ∧ str "11" ≠ zeros (minimalP 1) := by decide

theorem witness_EncodeIsSystematic : 1 ≤ 1 ∧ (str "1").length = 1 ∧ 0 < 1 ∧ 1 < minimalP 1 := by decide

theorem witness_ExtractAfterEncode : 1 ≤ (one .correct).k ∧ (str "1").length = (one .correct).k := by decide

theorem witness_SyndromeComparesParity : 1 ≤ 1 ∧ (str "101").length = codeLen 1 ∧ 1 < minimalP 1 := by decide

theorem witness_ZeroSyndromeIffCodeword :
    1 ≤ 1 ∧ (str "111").length = codeLen 1 ∧ syndromeOf 1 (str "111") = zeros (minimalP 1) := by decide

theorem witness_EncodeLinearWithDistanceThree :
    1 ≤ 1 ∧ (str "1").length = 1 ∧ (str "0").length = 1 ∧ str "1" ≠ str "0" ∧
      encodeWord 1 (str "1") = encodeWord 1 (str "1") := by decide

theorem witness_SyndromeDependsOnErrorOnly :
    1 ≤ 1 ∧ (str "1").length = 1 ∧ (str "011").length = codeLen 1 ∧ 0 < codeLen 1 ∧ 2 < codeLen 1 ∧ 0 ≠ 2 := by decide

theorem witness_SingleBitErrorsCorrected :
    1 ≤ (one .correct).k ∧ (one .correct).mode = .correct ∧ (str "1").length = (one .correct).k ∧
      2 < codeLen (one .correct).k := by decide

theorem witness_DetectModeRejectsOneAndTwoFlips :
    1 ≤ (one .detect).k ∧ (one .detect).mode = .detect ∧ (str "1").length = (one .detect).k ∧
      0 < codeLen (one .detect).k ∧ 2 < codeLen (one .detect).k ∧ 0 ≠ 2 := by decide

theorem witness_CorrectionIsIdempotent :
    1 ≤ 1 ∧ (str "111").length = codeLen 1 ∧ syndromeOf 1 (str "111") = zeros (minimalP 1) ∧
      checkCorrect 1 .correct (str "110") = .ok (str "111") := by decide

theorem witness_TwoBitErrorsMisdecodeSilently :
    1 ≤ (one .correct).k ∧ (one .correct).mode = .correct ∧ (str "1").length = (one .correct).k ∧
      0 < codeLen (one .correct).k ∧ 1 < codeLen (one .correct).k ∧ 0 ≠ 1 ∧ perfect (one .correct).k = true ∧
      2 < codeLen (one .correct).k ∧
      column (checkMatrix (one .correct).k) 2 =
        syndromeOf (one .correct).k
          (vxor (vxor (encodeWord (one .correct).k (str "1")) (onehot (codeLen (one .correct).k) 0))
            (onehot (codeLen (one .correct).k) 1)) := by decide

theorem witness_NoColumnMatchExactly_twoFlips :
    ∃ t, exec (.cor (str "00110")) (State.fresh 2 .correct) = .next t ∧ t.noMatch = true ∧ (str "11").length = 2 ∧
      0 < codeLen 2 ∧ 1 < codeLen 2 ∧
      str "00110" = vxor (vxor (encodeWord 2 (str "11")) (onehot (codeLen 2) 0)) (onehot (codeLen 2) 1) :=
  ⟨_, rfl, by decide⟩

theorem witness_NoColumnMatchExactly_fewerFlips :
    (∃ t, exec (.cor (str "111")) (one .correct) = .next t) ∧ (one .correct).mode = .correct ∧
      perfect (one .correct).k = true ∧ (str "1").length = (one .correct).k ∧
      str "111" = encodeWord (one .correct).k (str "1") ∧ 2 < codeLen (one .correct).k ∧
      str "110" = vxor (encodeWord (one .correct).k (str "1")) (onehot (codeLen (one .correct).k) 2) :=
  ⟨⟨_, rfl⟩, by decide⟩

theorem witness_CodewordErrorsUndetected :
    1 ≤ (one .detect).k ∧ (str "0").length = (one .detect).k ∧ (str "1").length = (one .detect).k := by decide

theorem witness_AbstractOutcomeAgreesWithPorts :
    1 ≤ 1 ∧ (str "110").length = codeLen 1 ∧ checkCorrect 1 .correct (str "110") = .ok (str "111") ∧
      checkCorrect 1 .detect (str "110") = .error .bitError ∧
      checkCorrect 2 .correct (str "00110") = .error .noColumnMatch := by decide

theorem witness_RecoverAfterOneFlip :
    1 ≤ (one .correct).k ∧ (one .correct).mode = .correct ∧ (str "1").length = (one .correct).k ∧
      0 < codeLen (one .correct).k := by decide

theorem witness_RecoverIsCorThenExt :
    1 ≤ (one .correct).k ∧ (str "110").length = codeLen (one .correct).k ∧
      checkCorrect (one .correct).k (one .correct).mode (str "110") = .ok (str "111") ∧
      checkCorrect (one .detect).k (one .detect).mode (str "110") = .error .bitError := by decide

theorem witness_FlipTwiceRestores : (∀ j ∈ [0, 2, 0], j < (str "101").length) ∧ 2 < (str "101").length := by decide

/-- A bench on the shortened instance `k = 2`. -/
def benchTwo : Bench := { Bench.start with inst := some (State.fresh 2 .correct) }

theorem witness_ScriptFaultMarkSetAndStays_set :
    benchTwo.inst = some (State.fresh 2 .correct) ∧ benchTwo.value (.lit (str "00110")) = some (str "00110") ∧
      1 ≤ (State.fresh 2 .correct).k ∧ (str "00110").length = codeLen (State.fresh 2 .correct).k ∧
      checkCorrect (State.fresh 2 .correct).k (State.fresh 2 .correct).mode (str "00110") = .error .noColumnMatch := by
  decide

theorem witness_ScriptFaultMarkSetAndStays_onlyThen :
    (benchTwo.line (.op "d" .cor (.lit (str "00110")))).faulted = true := by decide

theorem witness_ScriptFaultMarkSetAndStays_stays : { Bench.start with faulted := true }.faulted = true := by decide

theorem witness_StepKeepsConstantsAndHistory :
    ∃ t, step { oneWith (encode (.cor (str "110"))) with runFault := some .noColumnMatch } = .next t ∧
      { oneWith (encode (.cor (str "110"))) with runFault := some .noColumnMatch }.runFault.isSome = true :=
  ⟨_, rfl, rfl⟩

theorem witness_FreshInstancesMeetInvariant : 1 ≤ 1 := by decide

theorem witness_StepKeepsInvariant :
    (oneWith (encode (.cor (str "110")))).Inv ∧ ∃ t, step (oneWith (encode (.cor (str "110")))) = .next t :=
  ⟨⟨by decide, by decide, by decide, by decide, by decide, by decide, by simp [oneWith, one],
    by simp [oneWith, one, State.fresh]⟩, _, rfl⟩

end Sys2Proof.Tests
end

section
/-! SUPPORT. Descriptors: the identifier bits, the operand bits and the decoder's answer for each identifier. -/

namespace Sys2Proof

theorem take_three_identifier (id : Nat) (v : Bits) : (ofPortInt 3 id ++ v).take 3 = ofPortInt 3 id :=
  List.take_left' (length_ofPortInt 3 id)

theorem drop_three_identifier (id : Nat) (v : Bits) : (ofPortInt 3 id ++ v).drop 3 = v :=
  List.drop_left' (length_ofPortInt 3 id)

theorem Instr.opId_lt_eight (i : Instr) : i.opId < 2 ^ 3 := by
  cases i <;> simp [Instr.opId]

/-- An identifier that names an operation gives it exactly when the operand has its length (R44). -/
theorem decode_of_instrOfId_some {k id : Nat} {v : Bits} {i : Instr} (hid : id < 2 ^ 3)
    (hi : instrOfId id v = some i) :
    decode k (ofPortInt 3 id ++ v) = if v.length = i.operandLen k then .ok i else .error .validationError := by
  rw [decode, take_three_identifier, drop_three_identifier, portInt_ofPortInt hid, hi]
  simp

/-- An identifier that names no operation is refused under its own name, whatever the width (R45). -/
theorem decode_of_instrOfId_none {id : Nat} {v : Bits} (k : Nat) (hid : id < 2 ^ 3) (hi : instrOfId id v = none) :
    decode k (ofPortInt 3 id ++ v) = .error (.noSuchOperation id) := by
  rw [decode, take_three_identifier, drop_three_identifier, portInt_ofPortInt hid, hi]

/-- Element `j` of the operand stands on bit `3 + j` of the descriptor (R43). -/
theorem bitAt_encode_operand (i : Instr) (j : Nat) : bitAt (encode i) (3 + j) = bitAt i.operand j := by
  rw [encode, bitAt_append_right (by simp)]
  simp

theorem portInt_encode_identifier (i : Instr) : portInt ((encode i).take 3) = i.opId := by
  rw [encode, take_three_identifier, portInt_ofPortInt i.opId_lt_eight]

/-- A descriptor as an integer (R43). -/
theorem portInt_encode (i : Instr) : portInt (encode i) = i.opId + 8 * portInt i.operand := by
  simp [encode, portInt_append, portInt_ofPortInt i.opId_lt_eight]

/-- Settles O15: the width is that of `Laws.EncodeWidth`, the bits and the integer are those of the two parts that
`encode` appends. -/
theorem descriptorLayout : Obligations.DescriptorLayout := by
  intro k i hw
  obtain ⟨-, hlen⟩ := Laws.EncodeWidth.of_any i
  exact ⟨hlen k hw, portInt_encode_identifier i, fun j _ => bitAt_encode_operand i j, portInt_encode i⟩

/-- Settles O16: each identifier either names an operation, whose operand length is then checked, or is reserved. -/
theorem decoderByIdentifier : Obligations.DecoderByIdentifier := by
  intro k v
  exact ⟨decode_of_instrOfId_some (id := 0) (i := .enc v) (by decide) rfl,
    decode_of_instrOfId_some (id := 1) (i := .ext v) (by decide) rfl,
    decode_of_instrOfId_some (id := 2) (i := .syn v) (by decide) rfl,
    decode_of_instrOfId_some (id := 3) (i := .pos v) (by decide) rfl,
    decode_of_instrOfId_some (id := 4) (i := .cor v) (by decide) rfl,
    decode_of_instrOfId_none k (by decide) rfl, decode_of_instrOfId_none k (by decide) rfl,
    decode_of_instrOfId_none k (by decide) rfl⟩

end Sys2Proof
end

section
/-! SUPPORT. The spellings of a mode. -/

namespace Sys2Proof.Machine

/-- The three answers `modeOfText` can give. -/
theorem modeOfText_cases (t : String) :
    (t = "CORRECT" ∧ modeOfText t = some .correct) ∨ (t = "DETECT" ∧ modeOfText t = some .detect) ∨
    (t ≠ "CORRECT" ∧ t ≠ "DETECT" ∧ modeOfText t = none) := by
  unfold modeOfText
  by_cases hc : t = "CORRECT"
  · simp [hc]
  · by_cases hd : t = "DETECT" <;> simp [hc, hd]

/-- Settles O2: `modeOfText` compares with the two spellings and accepts no other. -/
theorem modeEncodingAndSpelling : Obligations.ModeEncodingAndSpelling := by
  refine ⟨rfl, rfl, fun t => ?_⟩
  obtain ⟨rfl, h⟩ | ⟨rfl, h⟩ | ⟨hc, hd, h⟩ := modeOfText_cases t
  · simp [h]
  · simp [h]
  · simp [h, hc, hd]

end Sys2Proof.Machine
end

section
/-! SUPPORT. Renderings: `bin_p` and `colval` as the reversed port forms, the renderings of weight one, the candidates
(30_encoding.md R36 to R38; 40_code_construction.md R55). -/

namespace Sys2Proof

/-! ### Elements of a rendering, and the number it renders -/

/-- `colval` reads a vector from its other end (R38). -/
theorem portInt_reverse (s : Bits) : portInt s.reverse = colval s := by
  induction s with
  | nil => rfl
  | cons b s ih => simp [portInt_append, portInt, colval, ih]; ring

/-- `bin_p` writes the bits of a number most significant first (R36). -/
theorem binP_eq_reverse (p x : Nat) : binP p x = (ofPortInt p x).reverse := by
  refine List.ext_getElem (by simp) fun r hr hr' => ?_
  simp [binP, ofPortInt]

theorem colval_binP {p x : Nat} (h : x < 2 ^ p) : colval (binP p x) = x := by
  rw [← portInt_reverse, binP_eq_reverse, List.reverse_reverse, portInt_ofPortInt h]

theorem binP_injective {p x y : Nat} (hx : x < 2 ^ p) (hy : y < 2 ^ p) (h : binP p x = binP p y) : x = y := by
  rw [← colval_binP hx, h, colval_binP hy]

theorem bitAt_ofPortInt {L b : Nat} (hb : b < L) (x : Nat) : bitAt (ofPortInt L x) b = decide (x / 2 ^ b % 2 = 1) := by
  rw [ofPortInt, bitAt_map_range _ hb]
  rfl

theorem bitAt_binP {p r : Nat} (hr : r < p) (x : Nat) : bitAt (binP p x) r = x.testBit (p - 1 - r) := by
  rw [binP, bitAt_map_range _ hr, Nat.testBit_eq_decide_div_mod_eq]
  rfl

/-! ### One-hot vectors and weight one -/

/-- The renderings of the powers of two are the one-hot vectors. -/
theorem binP_two_pow {p t : Nat} (ht : t < p) : binP p (2 ^ (p - 1 - t)) = onehot p t := by
  refine bits_ext (by simp) fun r hr => ?_
  rw [length_binP] at hr
  rw [bitAt_binP hr, bitAt_onehot hr, Nat.testBit_two_pow, decide_eq_decide]
  omega

theorem onehot_injective {n i j : Nat} (hi : i < n) (h : onehot n i = onehot n j) : i = j := by
  have := bitAt_onehot hi j
  rw [← h, bitAt_onehot hi] at this
  simpa using this

theorem onehot_zero (n : Nat) : onehot (n + 1) 0 = true :: zeros n := by
  simp [onehot_succ, zeros]

theorem onehot_succ_succ (n t : Nat) : onehot (n + 1) (t + 1) = false :: onehot n t := by
  rw [onehot_succ]
  simp [onehot]

theorem weight_eq_zero_iff {v : Bits} : weight v = 0 ↔ v = zeros v.length := by
  simp [weight, zeros, List.count_eq_zero, List.eq_replicate_iff]

/-- The vectors of weight one are the one-hot vectors. -/
theorem weight_eq_one_iff {v : Bits} : weight v = 1 ↔ ∃ t < v.length, v = onehot v.length t := by
  induction v with
  | nil => simp [weight]
  | cons b v ih =>
    have hsplit : (∃ t < v.length + 1, b :: v = onehot (v.length + 1) t) ↔
        (b = true ∧ v = zeros v.length) ∨ (b = false ∧ ∃ t < v.length, v = onehot v.length t) := by
      rw [Nat.exists_lt_succ_left]
      simp [onehot_zero, onehot_succ_succ, and_left_comm]
    rw [List.length_cons, hsplit, ← weight_eq_zero_iff, ← ih]
    cases b <;> simp [weight]

/-- The renderings of weight one are those of the powers of two. -/
theorem weight_binP_eq_one_iff {p x : Nat} (hx : x < 2 ^ p) : weight (binP p x) = 1 ↔ ∃ i, x = 2 ^ i := by
  rw [weight_eq_one_iff, length_binP]
  constructor
  · rintro ⟨t, ht, h⟩
    have hpow : 2 ^ (p - 1 - t) < 2 ^ p := Nat.pow_lt_pow_right (by decide) (by omega)
    exact ⟨p - 1 - t, binP_injective hx hpow (h.trans (binP_two_pow ht).symm)⟩
  · rintro ⟨i, rfl⟩
    have hi : i < p := (Nat.pow_lt_pow_iff_right (by decide)).mp hx
    refine ⟨p - 1 - i, by omega, ?_⟩
    rw [← binP_two_pow (by omega), show p - 1 - (p - 1 - i) = i by omega]

/-! ### The candidates -/

/-- The equivalent form of R55: the candidates are the integers that are no powers of two. -/
theorem mem_cand_iff {p x : Nat} : x ∈ cand p ↔ 1 ≤ x ∧ x < 2 ^ p ∧ ¬ ∃ i, x = 2 ^ i := by
  rw [mem_cand, and_left_comm]
  exact and_congr_right fun _ => and_congr_right fun hx => not_congr (weight_binP_eq_one_iff hx)

theorem nodup_cand (p : Nat) : (cand p).Nodup := List.nodup_range.filter _

/-- The integers below `2^p` that are no candidates: 0 and the powers of two. -/
theorem toFinset_cand (p : Nat) :
    (cand p).toFinset = Finset.range (2 ^ p) \ insert 0 ((Finset.range p).image (2 ^ ·)) := by
  ext x
  simp only [List.mem_toFinset, mem_cand_iff, Finset.mem_sdiff, Finset.mem_range, Finset.mem_insert, Finset.mem_image,
    not_or, Nat.one_le_iff_ne_zero]
  constructor
  · rintro ⟨h0, hx, hpow⟩
    exact ⟨hx, h0, fun ⟨i, _, hi⟩ => hpow ⟨i, hi.symm⟩⟩
  · rintro ⟨hx, h0, hpow⟩
    refine ⟨h0, hx, ?_⟩
    rintro ⟨i, rfl⟩
    exact hpow ⟨i, (Nat.pow_lt_pow_iff_right (by decide)).mp hx, rfl⟩

theorem length_cand (p : Nat) : (cand p).length = 2 ^ p - p - 1 := by
  have hinj : Set.InjOn (fun i => 2 ^ i) (Finset.range p : Set Nat) :=
    (Nat.pow_right_injective le_rfl).injOn
  have hsub : insert 0 ((Finset.range p).image (2 ^ ·)) ⊆ Finset.range (2 ^ p) := by
    intro x hx
    simp only [Finset.mem_insert, Finset.mem_image, Finset.mem_range] at hx ⊢
    obtain rfl | ⟨i, hi, rfl⟩ := hx
    · positivity
    · exact Nat.pow_lt_pow_right (by decide) hi
  rw [← List.toFinset_card_of_nodup (nodup_cand p), toFinset_cand, Finset.card_sdiff_of_subset hsub,
    Finset.card_insert_of_notMem (by simp), Finset.card_image_of_injOn hinj, Finset.card_range, Finset.card_range,
    Nat.sub_sub]

end Sys2Proof
end

section
/-! SUPPORT. The constants `p` and `W` as least solutions, and the columns of `H`: the first `k` are the renderings of
the candidates, the last `p` are one-hot, and no two are equal (30_encoding.md R39; 40_code_construction.md R53, R59,
R60, R62). -/

namespace Sys2Proof

/-! ### `p` and `W` -/

/-- The loop stops at a candidate that passes the test, or after all its fuel. -/
theorem leastFrom_found_or_exhausted (f : Nat → Bool) (fuel start : Nat) :
    f (leastFrom f fuel start) = true ∨ leastFrom f fuel start = start + fuel := by
  induction fuel generalizing start with
  | zero => exact .inr rfl
  | succ fuel ih =>
    unfold leastFrom
    by_cases hs : f start = true
    · simp [hs]
    · simpa [hs, Nat.add_assoc, Nat.add_comm 1 fuel] using ih (start + 1)

/-- The loop finds a candidate within its fuel, also the one where its fuel ends. -/
theorem leastFrom_found_of_le {f : Nat → Bool} {fuel start i : Nat} (hi : start ≤ i) (hfuel : i ≤ start + fuel)
    (hf : f i = true) : f (leastFrom f fuel start) = true := by
  obtain hlt | rfl := hfuel.lt_or_eq
  · exact leastFrom_found hi hlt hf
  · obtain h | h := leastFrom_found_or_exhausted f fuel start
    · exact h
    · rwa [h]

/-- `2^p − p − 1 ≥ k` (R53). -/
theorem le_minimalP_bound (k : Nat) : k ≤ 2 ^ minimalP k - minimalP k - 1 := by
  have hbound : k ≤ 2 ^ (k + 1) - (k + 1) - 1 := by
    have := Nat.lt_two_pow_self (n := k)
    rw [pow_succ]
    omega
  simpa [minimalP] using leastFrom_found_of_le (f := fun p => decide (k ≤ 2 ^ p - p - 1)) (fuel := k + 1)
    (Nat.zero_le _) (by simp) (decide_eq_true hbound)

/-- The candidates never run out (R57). -/
theorem le_length_cand (k : Nat) : k ≤ (cand (minimalP k)).length := by
  rw [length_cand]
  exact le_minimalP_bound k

/-- `W` bits hold every position (R39). -/
theorem codeLen_le_two_pow_posWidth (k : Nat) : codeLen k ≤ 2 ^ posWidth k := by
  simpa [posWidth] using leastFrom_found_of_le (f := fun w => decide (codeLen k ≤ 2 ^ w)) (fuel := codeLen k)
    (Nat.zero_le _) (by simp) (decide_eq_true Nat.lt_two_pow_self.le)

/-- No smaller width does (R39). -/
theorem two_pow_lt_codeLen {k w : Nat} (h : w < posWidth k) : 2 ^ w < codeLen k := by
  simpa using (leastFrom_minimal _ _ _).2 w (Nat.zero_le _) h

/-! ### The columns of `H` -/

theorem column_transpose {cols r : Nat} {M : Matrix} (hr : r < M.length) (hrow : M[r].length = cols) :
    column (transpose cols M) r = M[r] := by
  refine bits_ext (by simp [hrow]) fun c hc => ?_
  rw [length_column, length_transpose] at hc
  rw [bitAt_column (by simpa using hc), entry_transpose hc hr, entry_of_lt hr]

theorem column_identity {m t : Nat} (ht : t < m) : column (identity m) t = onehot m t := by
  refine bits_ext (by simp) fun r hr => ?_
  rw [length_column, length_identity] at hr
  rw [bitAt_column (by simpa using hr), entry_identity hr ht, bitAt_onehot hr, decide_eq_decide]
  exact eq_comm

/-- The columns of `[A | B]` are those of `A`, then those of `B`. -/
theorem column_hcat_left {A B : Matrix} {cols c : Nat} (hlen : A.length = B.length)
    (hrow : ∀ row ∈ A, row.length = cols) (hc : c < cols) : column (hcat A B) c = column A c := by
  refine bits_ext (by simp [hlen]) fun r hr => ?_
  simp only [length_column, length_hcat, hlen, Nat.min_self] at hr
  have hA : r < A.length := hlen ▸ hr
  rw [bitAt_column (by simpa [hlen] using hr), bitAt_column hA,
    entry_hcat_left hA hr (by rwa [hrow _ (List.getElem_mem hA)])]

theorem column_hcat_right {A B : Matrix} {cols : Nat} (hlen : A.length = B.length)
    (hrow : ∀ row ∈ A, row.length = cols) (c : Nat) : column (hcat A B) (cols + c) = column B c := by
  refine bits_ext (by simp [hlen]) fun r hr => ?_
  simp only [length_column, length_hcat, hlen, Nat.min_self] at hr
  have hA : r < A.length := hlen ▸ hr
  have hAr : A[r].length = cols := hrow _ (List.getElem_mem hA)
  rw [bitAt_column (by simpa [hlen] using hr), bitAt_column hr, entry_hcat_right hA hr (by omega), hAr,
    Nat.add_sub_cancel_left]

theorem length_of_mem_transpose {cols : Nat} {M : Matrix} {row : Bits} (h : row ∈ transpose cols M) :
    row.length = M.length := by
  obtain ⟨c, -, rfl⟩ := List.mem_map.mp h
  exact length_column M c

@[simp] theorem length_parityMatrix (k : Nat) : (parityMatrix k).length = k := by
  simpa [parityMatrix] using le_length_cand k

theorem length_of_mem_parityBlock {k : Nat} : ∀ row ∈ transpose (minimalP k) (parityMatrix k), row.length = k :=
  fun _ h => (length_of_mem_transpose h).trans (length_parityMatrix k)

/-- A data column of `H` is a row of `P`, the rendering of a candidate (R60). -/
theorem column_checkMatrix_data {k j : Nat} (hj : j < k) :
    column (checkMatrix k) j = binP (minimalP k) ((cand (minimalP k))[j]'(hj.trans_le (le_length_cand k))) := by
  have hP : j < (parityMatrix k).length := by simpa using hj
  rw [checkMatrix, column_hcat_left (by simp) length_of_mem_parityBlock hj,
    column_transpose hP (length_of_mem_parityMatrix (List.getElem_mem hP))]
  simp [parityMatrix]

/-- A parity column of `H` is one-hot (R60). -/
theorem column_checkMatrix_parity {k t : Nat} (ht : t < minimalP k) :
    column (checkMatrix k) (k + t) = onehot (minimalP k) t := by
  rw [checkMatrix, column_hcat_right (by simp) length_of_mem_parityBlock, column_identity ht]

/-- The weight of a column tells the two blocks apart. -/
theorem weight_column_checkMatrix_eq_one_iff {k j : Nat} (hj : j < codeLen k) :
    weight (column (checkMatrix k) j) = 1 ↔ k ≤ j := by
  by_cases hd : j < k
  · rw [column_checkMatrix_data hd]
    have hmem := List.getElem_mem (hd.trans_le (le_length_cand k))
    simp [(mem_cand.mp hmem).2.2, hd]
  · obtain ⟨t, rfl⟩ := Nat.exists_eq_add_of_le (Nat.le_of_not_lt hd)
    have ht : t < minimalP k := by simpa [codeLen] using hj
    rw [column_checkMatrix_parity ht]
    simpa [weight_eq_one_iff] using ⟨t, ht, rfl⟩

/-- The columns of `H` are pairwise different (R62). -/
theorem column_checkMatrix_injective {k i j : Nat} (hi : i < codeLen k) (hj : j < codeLen k)
    (h : column (checkMatrix k) i = column (checkMatrix k) j) : i = j := by
  have hblock : k ≤ i ↔ k ≤ j := by
    rw [← weight_column_checkMatrix_eq_one_iff hi, h, weight_column_checkMatrix_eq_one_iff hj]
  by_cases hd : i < k
  · have hd' : j < k := by omega
    have hlt : ∀ x ∈ cand (minimalP k), x < 2 ^ minimalP k := fun x hx => (mem_cand.mp hx).1
    rw [column_checkMatrix_data hd, column_checkMatrix_data hd'] at h
    exact (nodup_cand _).getElem_inj_iff.mp
      (binP_injective (hlt _ (List.getElem_mem _)) (hlt _ (List.getElem_mem _)) h)
  · obtain ⟨t, rfl⟩ := Nat.exists_eq_add_of_le (Nat.le_of_not_lt hd)
    obtain ⟨u, rfl⟩ := Nat.exists_eq_add_of_le (hblock.mp (Nat.le_of_not_lt hd))
    have ht : t < minimalP k := by simpa [codeLen] using hi
    have hu : u < minimalP k := by simpa [codeLen] using hj
    rw [column_checkMatrix_parity ht, column_checkMatrix_parity hu] at h
    rw [onehot_injective ht h]

end Sys2Proof
end

section
/-! SUPPORT. The match lines: line `j` is the equality of the syndrome with column `j`, so at most one line is 1
(30_encoding.md R40; 44_error_position.md R80, R82, R86). -/

namespace Sys2Proof.Machine

@[simp] theorem length_matchLines (k : Nat) (s : Bits) : (matchLines k s).length = codeLen k := by simp [matchLines]

/-- Line `j` compares the syndrome with column `j` of `H` (R80). -/
theorem bitAt_matchLines {k j : Nat} {s : Bits} (hs : s.length = minimalP k) (hj : j < codeLen k) :
    bitAt (matchLines k s) j = decide (s = column (checkMatrix k) j) := by
  have heq : s = column (checkMatrix k) j ↔ ∀ r < minimalP k, bitAt s r = entry (checkMatrix k) r j := by
    constructor
    · intro h r hr
      rw [h, bitAt_column (by simpa using hr)]
    · intro h
      refine bits_ext (by simp [hs]) fun r hr => ?_
      rw [hs] at hr
      rw [h r hr, bitAt_column (by simpa using hr)]
  rw [matchLines, bitAt_map_range _ hj, Bool.eq_iff_iff, decide_eq_true_iff, heq]
  simp

/-- A syndrome equal to column `j` raises line `j` alone. -/
theorem matchLines_column {k j : Nat} (hj : j < codeLen k) :
    matchLines k (column (checkMatrix k) j) = onehot (codeLen k) j := by
  refine bits_ext (by simp) fun i hi => ?_
  rw [length_matchLines] at hi
  rw [bitAt_matchLines (by simp) hi, bitAt_onehot hi, decide_eq_decide]
  exact ⟨fun h => (column_checkMatrix_injective hj hi h).symm, fun h => by rw [h]⟩

/-- A syndrome equal to no column raises no line. -/
theorem matchLines_of_no_column {k : Nat} {s : Bits} (hs : s.length = minimalP k)
    (h : ∀ j < codeLen k, s ≠ column (checkMatrix k) j) : matchLines k s = zeros (codeLen k) := by
  refine bits_ext (by simp) fun j hj => ?_
  rw [length_matchLines] at hj
  simp [bitAt_matchLines hs hj, h j hj]

theorem errValidFlag_zeros (n : Nat) : errValidFlag (zeros n) = false := by
  simp [errValidFlag, orAll_eq_false]

theorem errValidFlag_onehot {n j : Nat} (hj : j < n) : errValidFlag (onehot n j) = true :=
  orAll_eq_true.mpr ⟨j, by simpa using hj, by simp [bitAt_onehot hj]⟩

/-- The position of a syndrome equal to column `j` (R79). -/
theorem positionOf_column {k j : Nat} (hj : j < codeLen k) : positionOf k (column (checkMatrix k) j) = some j := by
  rw [positionOf, matchLines_column hj, List.findIdx?_eq_some_iff_getElem]
  refine ⟨by simpa using hj, by simp [onehot], fun i hi => ?_⟩
  simp [onehot, hi.ne]

theorem errPosOut_column {k j : Nat} (hj : j < codeLen k) (draw : Nat) :
    errPosOut k draw (column (checkMatrix k) j) = ofPortInt (posWidth k) j := by
  simp [errPosOut, positionOf_column hj]

/-- Settles O29: the syndrome is some column of `H`, whose line alone is then raised, or no column, and no line is. -/
theorem matchIsOneHotOrZero : Obligations.MatchIsOneHotOrZero := by
  intro k draw s _ hs
  refine ⟨codeLen_le_two_pow_posWidth k, fun _ => two_pow_lt_codeLen, ?_⟩
  by_cases hcol : ∃ j < codeLen k, s = column (checkMatrix k) j
  · obtain ⟨j, hj, rfl⟩ := hcol
    right
    rw [matchLines_column hj, errPosOut_column hj]
    exact ⟨errValidFlag_onehot hj, j, hj, rfl, portInt_ofPortInt (hj.trans_le (codeLen_le_two_pow_posWidth k)),
      fun b hb => bitAt_ofPortInt hb j⟩
  · left
    rw [matchLines_of_no_column hs (by simpa using hcol)]
    exact ⟨errValidFlag_zeros _, rfl⟩

end Sys2Proof.Machine
end

section
/-! SUPPORT. Elaboration: what it answers for each mode text and each `k` (40_code_construction.md R57, R63). -/

namespace Sys2Proof.Machine

/-- A mode not given is `CORRECT` (R5). -/
theorem elaborate_none (k : Int) : elaborate k none = elaborate k (some "CORRECT") := rfl

theorem elaborate_of_unknown_mode {t : String} (h : modeOfText t = none) (k : Int) :
    elaborate k (some t) = .error .configurationError := by
  simp [elaborate, h]

theorem elaborate_of_lt_one {t : String} {m : Mode} {k : Int} (h : modeOfText t = some m) (hk : k < 1) :
    elaborate k (some t) = .error .kBelowOne := by
  simp [elaborate, h, hk]

/-- The size check of R57 never refuses. -/
theorem elaborate_of_legal {t : String} {m : Mode} {k : Nat} (h : modeOfText t = some m) (hk : 1 ≤ k) :
    elaborate k (some t) = .ok (State.fresh k m) := by
  have hpos : ¬ (k : Int) < 1 := by omega
  have hsize : ¬ (cand (minimalP k)).length < k := (le_length_cand k).not_gt
  simp [elaborate, h, hpos, hsize]

/-- Settles O1: an unknown spelling is refused first, then `k < 1`, and nothing else is refused. -/
theorem elaborationChecksModeThenSize : Obligations.ElaborationChecksModeThenSize := by
  obtain ⟨-, -, hspelling⟩ := modeEncodingAndSpelling
  have hcorrect : modeOfText "CORRECT" = some .correct := (hspelling _).1.mpr rfl
  have hdetect : modeOfText "DETECT" = some .detect := (hspelling _).2.1.mpr rfl
  simp only [Obligations.ElaborationChecksModeThenSize, elaborate_none]
  refine ⟨fun k t hc hd => ?_, fun k hk => ?_, fun k hk => ?_⟩
  · exact elaborate_of_unknown_mode ((hspelling t).2.2.mpr ⟨hc, hd⟩) k
  · exact ⟨elaborate_of_lt_one hcorrect hk, elaborate_of_lt_one hcorrect hk, elaborate_of_lt_one hdetect hk⟩
  · exact ⟨le_length_cand k, ⟨_, elaborate_of_legal hcorrect hk, rfl, rfl⟩,
      ⟨_, elaborate_of_legal hcorrect hk, rfl, rfl⟩, ⟨_, elaborate_of_legal hdetect hk, rfl, rfl⟩⟩

end Sys2Proof.Machine
end

section
/-! SUPPORT. The size `p` as the least solution, and the entries of `P`, `G` and `H`
(40_code_construction.md R53, R54, R56, R58, R59). -/

namespace Sys2Proof

/-- No number below `p` gives enough candidates (R53). -/
theorem bound_lt_of_lt_minimalP {k q : Nat} (h : q < minimalP k) : 2 ^ q - q - 1 < k := by
  simpa using (leastFrom_minimal _ _ _).2 q (Nat.zero_le _) h

/-- Settles O3: the loop of R53 stops at a solution and has passed over every smaller number. -/
theorem minimalPIsLeast : Obligations.MinimalPIsLeast :=
  fun k _ => ⟨le_minimalP_bound k, fun _ => bound_lt_of_lt_minimalP, rfl⟩

/-! ### Rows of `P` -/

theorem getElem_parityMatrix {k i : Nat} (hi : i < k) :
    (parityMatrix k)[i]'(by simpa using hi) =
      binP (minimalP k) ((cand (minimalP k))[i]'(hi.trans_le (le_length_cand k))) := by
  simp [parityMatrix]

/-- Settles O5: row `i` renders the `i`-th candidate, which exists since the candidates never run out. -/
theorem parityMatrixRowsRenderCandidates : Obligations.ParityMatrixRowsRenderCandidates := by
  intro k _
  refine ⟨length_parityMatrix k, fun i hi => ?_⟩
  have hc : i < (cand (minimalP k)).length := hi.trans_le (le_length_cand k)
  have hP : i < (parityMatrix k).length := by simpa using hi
  refine ⟨(cand (minimalP k))[i], List.getElem?_eq_getElem hc, ?_, fun j hj => ?_⟩
  · rw [List.getElem?_eq_getElem hP, getElem_parityMatrix hi]
  · rw [entry_of_lt hP, getElem_parityMatrix hi, bitAt_binP hj, Nat.testBit_eq_decide_div_mod_eq]

/-! ### Entries of `G` -/

/-- Row `c` of `[I_k | P]` is column `c` of `G`. -/
theorem entry_genMatrix {k r c : Nat} (hr : r < codeLen k) (hc : c < k) :
    entry (genMatrix k) r c = entry (hcat (identity k) (parityMatrix k)) c r :=
  entry_transpose hr (by simpa using hc)

theorem length_of_mem_genMatrix {k : Nat} {row : Bits} (h : row ∈ genMatrix k) : row.length = k := by
  simpa using length_of_mem_transpose h

theorem length_of_mem_identity {m : Nat} : ∀ row ∈ identity m, row.length = m := by
  simp [identity]

/-- The message rows of `G` are the identity block (R58). -/
theorem entry_genMatrix_message {k r c : Nat} (hr : r < k) (hc : c < k) :
    entry (genMatrix k) r c = decide (r = c) := by
  have hI : c < (identity k).length := by simpa using hc
  have hrow : (identity k)[c].length = k := length_of_mem_identity _ (List.getElem_mem hI)
  rw [entry_genMatrix (Nat.lt_add_right _ hr) hc, entry_hcat_left hI (by simpa using hc) (by rwa [hrow]),
    entry_identity hc hr]

/-- The parity rows of `G` are `Pᵀ` (R58). -/
theorem entry_genMatrix_parity {k j c : Nat} (hj : j < minimalP k) (hc : c < k) :
    entry (genMatrix k) (k + j) c = entry (parityMatrix k) c j := by
  have hI : c < (identity k).length := by simpa using hc
  have hrow : (identity k)[c].length = k := length_of_mem_identity _ (List.getElem_mem hI)
  rw [entry_genMatrix (Nat.add_lt_add_left hj k) hc, entry_hcat_right hI (by simpa using hc) (by omega), hrow,
    Nat.add_sub_cancel_left]

/-- Settles O6: the entries of `G` block by block. -/
theorem generatorMatrixEntries : Obligations.GeneratorMatrixEntries :=
  fun k _ => ⟨length_genMatrix k, fun _ => length_of_mem_genMatrix, fun _ _ => entry_genMatrix_message,
    fun _ _ => entry_genMatrix_parity⟩

/-! ### Entries of `H` -/

theorem length_of_mem_hcat {A B : Matrix} {a b : Nat} (hA : ∀ row ∈ A, row.length = a)
    (hB : ∀ row ∈ B, row.length = b) {row : Bits} (h : row ∈ hcat A B) : row.length = a + b := by
  rw [hcat, ← List.map_uncurry_zip_eq_zipWith, List.mem_map] at h
  obtain ⟨⟨u, v⟩, hmem, rfl⟩ := h
  obtain ⟨hu, hv⟩ := List.of_mem_zip hmem
  simp [hA u hu, hB v hv]

theorem length_of_mem_checkMatrix {k : Nat} {row : Bits} (h : row ∈ checkMatrix k) : row.length = codeLen k :=
  length_of_mem_hcat length_of_mem_parityBlock length_of_mem_identity h

/-- The data columns of `H` are the rows of `P` (R59). -/
theorem getElem?_parityMatrix_eq_column {k j : Nat} (hj : j < k) :
    (parityMatrix k)[j]? = some (column (checkMatrix k) j) := by
  rw [column_checkMatrix_data hj, ← getElem_parityMatrix hj, List.getElem?_eq_getElem]

theorem entry_checkMatrix_data {k r j : Nat} (hr : r < minimalP k) (hj : j < k) :
    entry (checkMatrix k) r j = entry (parityMatrix k) j r := by
  rw [← bitAt_column (by simpa using hr), column_checkMatrix_data hj, ← getElem_parityMatrix hj, entry_of_lt]

theorem entry_checkMatrix_parity {k r t : Nat} (hr : r < minimalP k) (ht : t < minimalP k) :
    entry (checkMatrix k) r (k + t) = decide (r = t) := by
  rw [← bitAt_column (by simpa using hr), column_checkMatrix_parity ht, bitAt_onehot hr]

/-- Settles O7: an entry of `H` is an element of its column, a row of `P` or a one-hot vector. -/
theorem checkMatrixEntries : Obligations.CheckMatrixEntries :=
  fun k _ => ⟨length_checkMatrix k, fun _ => length_of_mem_checkMatrix, fun _ _ => entry_checkMatrix_data,
    fun _ _ => entry_checkMatrix_parity, fun _ => getElem?_parityMatrix_eq_column,
    fun _ => column_checkMatrix_parity⟩

end Sys2Proof
end

section
/-! SUPPORT. The encoder: the evaluation of `ENC` and the width of the word it gives (41_encoder.md R67). -/

namespace Sys2Proof.Machine

@[simp] theorem length_encodeWord (k : Nat) (msg : Bits) : (encodeWord k msg).length = codeLen k := by
  simp [encodeWord]

/-- `ENC` on a message of the right length of an existing instance: the message stands on `msg` and the codeword joins
the run (R13, R67). -/
theorem exec_enc_of_valid {s : State} {msg : Bits} (hk : 1 ≤ s.k) (hl : msg.length = s.k) :
    exec (.enc msg) s = .next ((s.driveEnc msg).record (.codeword (encodeWord s.k msg))) :=
  evaluate_of_valid hk hl _

/-- Settles O20: the state that `exec_enc_of_valid` gives differs in the input port and the run's list only, and its
port `cw` is the same product. -/
theorem encCompletesWithProduct : Obligations.EncCompletesWithProduct :=
  fun s msg hk hl => ⟨_, exec_enc_of_valid hk hl, rfl, rfl, length_encodeWord s.k msg⟩

end Sys2Proof.Machine
end

section
/-! SUPPORT. The extraction: the evaluation of `EXT`, the elements of the message it gives, and the message half of the
encoder's systematic layout (41_encoder.md R68; 42_extract.md R71, R72). -/

namespace Sys2Proof.Machine

theorem length_extractMessage {k : Nat} {w : Bits} (h : k ≤ w.length) : (extractMessage k w).length = k := by
  simpa [extractMessage] using h

theorem bitAt_extractMessage {k i : Nat} (hi : i < k) (w : Bits) : bitAt (extractMessage k w) i = bitAt w i := by
  simp [bitAt, extractMessage, hi]

/-- `EXT` on a word of the right length of an existing instance: the word stands on `cw_in` and the message joins the
run (R14, R71). -/
theorem exec_ext_of_valid {s : State} {w : Bits} (hk : 1 ≤ s.k) (hl : w.length = codeLen s.k) :
    exec (.ext w) s = .next ((s.driveExt w).record (.message (extractMessage s.k w))) :=
  evaluate_of_valid hk hl _

/-- Settles O21: the state that `exec_ext_of_valid` gives differs in the input port and the run's list only, and its
port `msg_out` is the same projection. -/
theorem extCompletesWithFirstElements : Obligations.ExtCompletesWithFirstElements :=
  fun s w hk hl => ⟨_, extractMessage s.k w, exec_ext_of_valid hk hl, length_extractMessage (by omega),
    fun _ hi => bitAt_extractMessage hi w, rfl, rfl⟩

/-! ### The round trip -/

theorem lt_length_genMatrix {k r : Nat} (hr : r < k) : r < (genMatrix k).length := by
  rw [length_genMatrix]
  exact Nat.lt_add_right _ hr

/-- A message row of `G` is one-hot (R58). -/
theorem getElem_genMatrix_message {k r : Nat} (hr : r < k) :
    (genMatrix k)[r]'(lt_length_genMatrix hr) = onehot k r := by
  have hG := lt_length_genMatrix hr
  have hrow : (genMatrix k)[r].length = k := length_of_mem_genMatrix (List.getElem_mem hG)
  refine bits_ext (by simp [hrow]) fun c hc => ?_
  rw [hrow] at hc
  rw [← entry_of_lt hG, entry_genMatrix_message hr hc, bitAt_onehot hc, decide_eq_decide]
  exact eq_comm

/-- The message bits are copied into the codeword (R68). -/
theorem bitAt_encodeWord_message {k i : Nat} {m : Bits} (hm : m.length = k) (hi : i < k) :
    bitAt (encodeWord k m) i = bitAt m i := by
  rw [encodeWord, bitAt_matVec (lt_length_genMatrix hi), getElem_genMatrix_message hi, dot_comm, ← hm,
    dot_onehot m (hm.symm ▸ hi)]

/-- Extraction undoes encoding (R72). -/
theorem extractMessage_encodeWord {k : Nat} {m : Bits} (hm : m.length = k) : extractMessage k (encodeWord k m) = m := by
  have hlen : (extractMessage k (encodeWord k m)).length = k := length_extractMessage (by simp [codeLen])
  refine bits_ext (by rw [hlen, hm]) fun i hi => ?_
  rw [hlen] at hi
  rw [bitAt_extractMessage hi, bitAt_encodeWord_message hm hi]

/-- Settles O33: the port `cw` holds the codeword, of which `EXT` takes the message bits back. -/
theorem extractAfterEncode : Obligations.ExtractAfterEncode := by
  intro s m hk hm
  have hround : extractMessage s.k (encodeWord s.k m) = m := extractMessage_encodeWord hm
  refine ⟨_, _, exec_enc_of_valid hk hm, exec_ext_of_valid hk (length_encodeWord s.k m), hround, ?_⟩
  simp [State.cw, hround]

end Sys2Proof.Machine
end

section
/-! SUPPORT. The syndrome: its width, when it is nonzero, and the evaluation of `SYN` (43_syndrome.md R74, R78). -/

namespace Sys2Proof.Machine

@[simp] theorem length_syndromeOf (k : Nat) (w : Bits) : (syndromeOf k w).length = minimalP k := by
  simp [syndromeOf]

/-- `syn_nonzero` is the OR of the `p` elements of the syndrome (R78). -/
theorem synNonzeroFlag_syndromeOf {k : Nat} {w : Bits} :
    synNonzeroFlag (syndromeOf k w) = true ↔ ∃ r, r < minimalP k ∧ bitAt (syndromeOf k w) r = true := by
  rw [synNonzeroFlag, orAll_eq_true, length_syndromeOf]

/-- `SYN` on a word of the right length of an existing instance: the word stands on `cw_in` and the syndrome joins the
run with its flag (R15, R74). -/
theorem exec_syn_of_valid {s : State} {w : Bits} (hk : 1 ≤ s.k) (hl : w.length = codeLen s.k) :
    exec (.syn w) s =
      .next ((s.driveSyn w).record (.syndrome (syndromeOf s.k w) (synNonzeroFlag (syndromeOf s.k w)))) :=
  evaluate_of_valid hk hl _

/-- Settles O22: the state that `exec_syn_of_valid` gives differs in the input port and the run's list only, and its
ports `syndrome` and `syn_nonzero` are the same product and the same OR. -/
theorem synCompletesWithProduct : Obligations.SynCompletesWithProduct :=
  fun s w hk hl => ⟨_, synNonzeroFlag (syndromeOf s.k w), exec_syn_of_valid hk hl, synNonzeroFlag_syndromeOf, rfl, rfl,
    length_syndromeOf s.k w, rfl⟩

end Sys2Proof.Machine
end

section
/-! SUPPORT. The evaluation of `POS`: its match lines, `err_valid` and `err_pos` as equality with the columns of `H`
(44_error_position.md R79, R80, R82). -/

namespace Sys2Proof.Machine

/-- Line `j` is 1 exactly when column `j` of `H` is the syndrome (R80). -/
theorem bitAt_matchLines_eq_true_iff {k j : Nat} {v : Bits} (hv : v.length = minimalP k) (hj : j < codeLen k) :
    bitAt (matchLines k v) j = true ↔ column (checkMatrix k) j = v := by
  rw [bitAt_matchLines hv hj, decide_eq_true_iff, eq_comm]

/-- `err_valid` is 1 exactly when some column of `H` is the syndrome (R80, R81). -/
theorem errValidFlag_matchLines_iff {k : Nat} {v : Bits} (hv : v.length = minimalP k) :
    errValidFlag (matchLines k v) = true ↔ ∃ j, j < codeLen k ∧ column (checkMatrix k) j = v := by
  rw [errValidFlag, orAll_eq_true, length_matchLines]
  exact exists_congr fun _ => and_congr_right (bitAt_matchLines_eq_true_iff hv)

/-- `err_pos` has `W` bits, with a match or with a free draw (R39, R82). -/
@[simp] theorem length_errPosOut (k draw : Nat) (v : Bits) : (errPosOut k draw v).length = posWidth k := by
  unfold errPosOut
  cases positionOf k v with
  | none => simp
  | some j => simp

/-- `POS` on a syndrome of the right length of an existing instance: the syndrome stands on `syndrome`, the next free
draw is taken, and the result joins the run (R16, R79, R82). -/
theorem exec_pos_of_valid {s : State} {v : Bits} (hk : 1 ≤ s.k) (hl : v.length = minimalP s.k) :
    exec (.pos v) s =
      .next ((s.drivePos v).record
        (.position (matchLines s.k v) (errValidFlag (matchLines s.k v)) (errPosOut s.k (s.posDraw + 1) v))) :=
  evaluate_of_valid hk hl _

/-- Settles O23: the state that `exec_pos_of_valid` gives differs in the input port, the draw counter and the run's
list only, and its ports are the same functions of the syndrome that the outcome records. -/
theorem posCompletesWithMatch : Obligations.PosCompletesWithMatch := by
  intro s v hk hv
  have hpos : ∀ j, j < codeLen s.k → column (checkMatrix s.k) j = v →
      errPosOut s.k (s.posDraw + 1) v = ofPortInt (posWidth s.k) j := by
    rintro j hj rfl
    exact errPosOut_column hj _
  exact ⟨_, matchLines s.k v, errValidFlag (matchLines s.k v), errPosOut s.k (s.posDraw + 1) v,
    exec_pos_of_valid hk hv, rfl, length_matchLines s.k v, fun _ => bitAt_matchLines_eq_true_iff hv,
    errValidFlag_matchLines_iff hv, length_errPosOut _ _ v, hpos, rfl, rfl, rfl⟩

end Sys2Proof.Machine
end

section
/-! SUPPORT. The systematic form of the two products: a codeword is the message followed by `Pᵀ·m`, so its syndrome is
zero, and flipping an element adds its column of `H` to the syndrome (40_code_construction.md R58, R59, R61;
43_syndrome.md R77). -/

namespace Sys2Proof

/-! ### Products with block matrices -/

/-- The identity matrix gives the vector back. -/
theorem matVec_identity {n : Nat} {v : Bits} (hv : v.length = n) : matVec (identity n) v = v := by
  subst hv
  refine bits_ext (by simp) fun i hi => ?_
  rw [length_matVec, length_identity] at hi
  rw [bitAt_matVec (by simpa using hi), dot_comm]
  simpa [identity] using dot_onehot v hi

/-- `[A | B]` times a vector cut at the width of `A` is the sum of the two products. -/
theorem matVec_hcat {A B : Matrix} {u : Bits} (hlen : A.length = B.length) (hrow : ∀ row ∈ A, row.length = u.length)
    (v : Bits) : matVec (hcat A B) (u ++ v) = vxor (matVec A u) (matVec B v) := by
  induction A generalizing B with
  | nil => rfl
  | cons row A ih =>
    cases B with
    | nil => simp at hlen
    | cons row' B =>
      have htail := ih (B := B) (by simpa using hlen) fun r hr => hrow r (List.mem_cons_of_mem _ hr)
      have hhead := dot_append (v := row') (y := v) (hrow row List.mem_cons_self)
      exact congrArg₂ List.cons hhead htail

/-- The rows of `G` are those of `I_k`, then those of `Pᵀ` (R58). -/
theorem genMatrix_eq_append (k : Nat) :
    genMatrix k = identity k ++ transpose (minimalP k) (parityMatrix k) := by
  have hlen : (identity k).length = (parityMatrix k).length := by simp
  rw [genMatrix, transpose, codeLen, List.range_add, List.map_append, List.map_map]
  refine congrArg₂ (· ++ ·) (List.map_congr_left fun c hc => ?_) (List.map_congr_left fun c _ => ?_)
  · have hc : c < k := List.mem_range.mp hc
    rw [column_hcat_left hlen length_of_mem_identity hc, column_identity hc]
  · exact column_hcat_right hlen length_of_mem_identity c

end Sys2Proof

namespace Sys2Proof.Machine

/-- A codeword is its message followed by the parity bits `Pᵀ·m` (R68). -/
theorem encodeWord_eq_append {k : Nat} {m : Bits} (hm : m.length = k) :
    encodeWord k m = m ++ matVec (transpose (minimalP k) (parityMatrix k)) m := by
  rw [encodeWord, genMatrix_eq_append, matVec, List.map_append]
  exact congrArg (· ++ _) (matVec_identity hm)

/-! ### Syndromes -/

/-- A codeword has zero syndrome: `H` adds the parity bits `Pᵀ·m` to themselves (R61). -/
theorem syndromeOf_encodeWord {k : Nat} {m : Bits} (hm : m.length = k) :
    syndromeOf k (encodeWord k m) = zeros (minimalP k) := by
  have hrow : ∀ row ∈ transpose (minimalP k) (parityMatrix k), row.length = m.length :=
    fun row hr => (length_of_mem_parityBlock row hr).trans hm.symm
  rw [syndromeOf, checkMatrix, encodeWord_eq_append hm, matVec_hcat (by simp) hrow, matVec_identity (by simp),
    vxor_self, length_matVec, length_transpose]

/-- Flipping element `j` adds column `j` of `H` to the syndrome (R77). -/
theorem syndromeOf_vxor_onehot {k j : Nat} {w : Bits} (hw : w.length = codeLen k) (hj : j < codeLen k) :
    syndromeOf k (vxor w (onehot (codeLen k) j)) = vxor (syndromeOf k w) (column (checkMatrix k) j) := by
  rw [syndromeOf, matVec_vxor _ (by simpa using hw), matVec_onehot (fun _ => length_of_mem_checkMatrix) hj, syndromeOf]

/-- Flipping the element whose column is the syndrome leaves a word of zero syndrome. -/
theorem syndromeOf_flip_of_column {k j : Nat} {w : Bits} (hw : w.length = codeLen k) (hj : j < codeLen k)
    (hs : syndromeOf k w = column (checkMatrix k) j) :
    syndromeOf k (vxor w (onehot (codeLen k) j)) = zeros (minimalP k) := by
  rw [syndromeOf_vxor_onehot hw hj, hs, vxor_self, length_column, length_checkMatrix]

/-- One flip of a codeword: the syndrome is the flipped element's column (R77). -/
theorem syndromeOf_one_flip {k j : Nat} {m : Bits} (hm : m.length = k) (hj : j < codeLen k) :
    syndromeOf k (vxor (encodeWord k m) (onehot (codeLen k) j)) = column (checkMatrix k) j := by
  have hlen : (column (checkMatrix k) j).length = minimalP k := by simp
  rw [syndromeOf_vxor_onehot (length_encodeWord k m) hj, syndromeOf_encodeWord hm, vxor_comm, ← hlen, vxor_zeros]

/-- Two flips of a codeword: the syndrome is the sum of the two columns (R77). -/
theorem syndromeOf_two_flips {k a b : Nat} {m : Bits} (hm : m.length = k) (ha : a < codeLen k) (hb : b < codeLen k) :
    syndromeOf k (vxor (vxor (encodeWord k m) (onehot (codeLen k) a)) (onehot (codeLen k) b)) =
      vxor (column (checkMatrix k) a) (column (checkMatrix k) b) := by
  rw [syndromeOf_vxor_onehot (by simp) hb, syndromeOf_one_flip hm ha]

end Sys2Proof.Machine
end

section
/-! SUPPORT. The columns of `H` as vectors: none is zero, two different ones add up to neither zero nor one of the two,
and in a perfect code every nonzero vector is a column (40_code_construction.md R62; 43_syndrome.md R77). -/

namespace Sys2Proof

theorem binP_zero (p : Nat) : binP p 0 = zeros p := by
  simp [binP, zeros]

/-- Every vector renders the number it holds (R37). -/
theorem binP_colval (s : Bits) : binP s.length (colval s) = s := by
  have h := ofPortInt_portInt s.reverse
  rw [List.length_reverse, portInt_reverse] at h
  rw [binP_eq_reverse, h, List.reverse_reverse]

/-- No column of `H` is zero (R62). -/
theorem column_checkMatrix_ne_zeros {k j : Nat} (hj : j < codeLen k) :
    column (checkMatrix k) j ≠ zeros (minimalP k) := by
  intro h
  by_cases hd : j < k
  · obtain ⟨hlt, hpos, -⟩ := mem_cand.mp (List.getElem_mem (hd.trans_le (le_length_cand k)))
    rw [column_checkMatrix_data hd, ← binP_zero] at h
    have := binP_injective hlt (by positivity) h
    omega
  · have hone := (weight_column_checkMatrix_eq_one_iff hj).mpr (Nat.le_of_not_lt hd)
    have hzero : weight (zeros (minimalP k)) = 0 := weight_eq_zero_iff.mpr (by simp)
    rw [h, hzero] at hone
    exact absurd hone (by decide)

/-- Two different columns do not cancel. -/
theorem vxor_columns_ne_zeros {k a b : Nat} (ha : a < codeLen k) (hb : b < codeLen k) (hab : a ≠ b) :
    vxor (column (checkMatrix k) a) (column (checkMatrix k) b) ≠ zeros (minimalP k) := by
  intro h
  have hlen : (column (checkMatrix k) a).length = (column (checkMatrix k) b).length := by simp
  exact hab (column_checkMatrix_injective ha hb ((vxor_eq_zeros hlen).mp (by simpa using h)))

/-- A sum of two columns is not its first summand, since the second is not zero. -/
theorem column_ne_vxor_columns {k a b : Nat} (hb : b < codeLen k) :
    column (checkMatrix k) a ≠ vxor (column (checkMatrix k) a) (column (checkMatrix k) b) := by
  intro h
  have hcancel := vxor_vxor_cancel (u := column (checkMatrix k) b) (v := column (checkMatrix k) a) (by simp)
  rw [vxor_comm (column _ b), ← h, vxor_self, length_column, length_checkMatrix] at hcancel
  exact column_checkMatrix_ne_zeros hb hcancel.symm

/-- A vector of weight one is a parity column; in a perfect code every other nonzero vector renders a candidate, and
every candidate is used (R62). -/
theorem exists_column_of_perfect {k : Nat} {s : Bits} (hperf : perfect k = true) (hs : s.length = minimalP k)
    (hne : s ≠ zeros (minimalP k)) : ∃ j, j < codeLen k ∧ column (checkMatrix k) j = s := by
  by_cases hw : weight s = 1
  · obtain ⟨t, ht, hst⟩ := weight_eq_one_iff.mp hw
    rw [hs] at ht hst
    exact ⟨k + t, Nat.add_lt_add_left ht k, (column_checkMatrix_parity ht).trans hst.symm⟩
  · have hrender : binP (minimalP k) (colval s) = s := hs ▸ binP_colval s
    have hpos : colval s ≠ 0 := fun h0 => hne (by rw [← hrender, h0, binP_zero])
    have hmem : colval s ∈ cand (minimalP k) :=
      mem_cand.mpr ⟨hs ▸ colval_lt s, Nat.one_le_iff_ne_zero.mpr hpos, hrender.symm ▸ hw⟩
    obtain ⟨j, hj, hget⟩ := List.getElem_of_mem hmem
    have hcount : (cand (minimalP k)).length = k := (length_cand _).trans (of_decide_eq_true hperf).symm
    have hjk : j < k := hcount ▸ hj
    exact ⟨j, Nat.lt_add_right _ hjk, by rw [column_checkMatrix_data hjk, hget, hrender]⟩

end Sys2Proof
end

section
/-! SUPPORT. Weights of error patterns: every flip of a 0 adds one. -/

namespace Sys2Proof

theorem vxor_cons (a b : Bool) (u v : Bits) : vxor (a :: u) (b :: v) = Bool.xor a b :: vxor u v := rfl

/-- Flipping an element that is 0 adds one to the weight. -/
theorem weight_vxor_onehot {v : Bits} {n j : Nat} (hv : v.length = n) (hj : j < n) (hb : bitAt v j = false) :
    weight (vxor v (onehot n j)) = weight v + 1 := by
  subst hv
  induction v generalizing j with
  | nil => simp at hj
  | cons b v ih =>
    cases j with
    | zero =>
      obtain rfl : b = false := by simpa using hb
      rw [List.length_cons, onehot_zero, vxor_cons, vxor_zeros]
      simp [weight]
    | succ j =>
      have htail := ih (j := j) (by simpa using hb) (by simpa using hj)
      rw [weight, weight] at htail
      rw [List.length_cons, onehot_succ_succ, vxor_cons, Bool.xor_false, weight, weight, List.count_cons,
        List.count_cons, htail, Nat.add_right_comm]

/-- Three flips at different positions have weight three. -/
theorem weight_three_flips {n a b c : Nat} (ha : a < n) (hb : b < n) (hc : c < n) (hab : a ≠ b) (hca : c ≠ a)
    (hcb : c ≠ b) : weight (vxor (vxor (onehot n a) (onehot n b)) (onehot n c)) = 3 := by
  have hone : weight (onehot n a) = 1 := weight_eq_one_iff.mpr ⟨a, by simpa using ha, by simp⟩
  have htwo : weight (vxor (onehot n a) (onehot n b)) = 2 := by
    rw [weight_vxor_onehot (by simp) hb (by simp [bitAt_onehot hb, hab.symm]), hone]
  have hbit : bitAt (vxor (onehot n a) (onehot n b)) c = false := by
    rw [bitAt_vxor (by simpa using hc) (by simpa using hc)]
    simp [bitAt_onehot hc, hca, hcb]
  rw [weight_vxor_onehot (by simp) hc hbit, htwo]

/-- Three flips of a word at different positions leave it at distance three. -/
theorem weight_vxor_three_flips {u : Bits} {n a b c : Nat} (hu : u.length = n) (ha : a < n) (hb : b < n)
    (hc : c < n) (hab : a ≠ b) (hca : c ≠ a) (hcb : c ≠ b) :
    weight (vxor (vxor (vxor (vxor u (onehot n a)) (onehot n b)) (onehot n c)) u) = 3 := by
  have herr : vxor (vxor (vxor (vxor u (onehot n a)) (onehot n b)) (onehot n c)) u =
      vxor (vxor (onehot n a) (onehot n b)) (onehot n c) := by
    rw [vxor_assoc u, vxor_assoc u, vxor_comm u]
    exact vxor_vxor_cancel (by simp [hu])
  rw [herr, weight_three_flips ha hb hc hab hca hcb]

end Sys2Proof
end

section
/-! SUPPORT. The evaluation of `COR`: the abstract outcome and the ports on a word whose syndrome is a column of `H`,
and on a word of nonzero syndrome in `DETECT` mode (45_corrector.md R87, R88). -/

namespace Sys2Proof.Machine

/-- `COR` on a word of the right length of an existing instance: the word stands on `cw_in` and the outcome joins the
run (R17, R87). -/
theorem exec_cor_of_valid {s : State} {w : Bits} (hk : 1 ≤ s.k) (hl : w.length = codeLen s.k) :
    exec (.cor w) s = .next ((s.driveCor w).correctorOutcome (checkCorrect s.k s.mode w)) :=
  evaluate_of_valid hk hl _

/-- The flag is 1 exactly on a nonzero syndrome (R78). -/
theorem synNonzeroFlag_eq_true_iff {k : Nat} {w : Bits} :
    synNonzeroFlag (syndromeOf k w) = true ↔ syndromeOf k w ≠ zeros (minimalP k) := by
  rw [← Bool.not_eq_false, synNonzeroFlag, orAll_eq_false, length_syndromeOf]

/-- A syndrome that is column `j` has its flag set, since no column is zero. -/
theorem synNonzeroFlag_of_column {k j : Nat} {w : Bits} (hj : j < codeLen k)
    (hs : syndromeOf k w = column (checkMatrix k) j) : synNonzeroFlag (syndromeOf k w) = true :=
  synNonzeroFlag_eq_true_iff.mpr (hs ▸ column_checkMatrix_ne_zeros hj)

/-- `CORRECT` mode flips the position whose column is the syndrome (R87). -/
theorem checkCorrect_of_column {k j : Nat} {w : Bits} (hj : j < codeLen k)
    (hs : syndromeOf k w = column (checkMatrix k) j) :
    checkCorrect k .correct w = .ok (vxor w (onehot (codeLen k) j)) := by
  simp [checkCorrect, synNonzeroFlag_of_column hj hs, hs ▸ positionOf_column hj]

/-- `DETECT` mode rejects every nonzero syndrome (R87). -/
theorem checkCorrect_detect_of_ne_zeros {k : Nat} {w : Bits} (hs : syndromeOf k w ≠ zeros (minimalP k)) :
    checkCorrect k .detect w = .error .bitError := by
  simp [checkCorrect, synNonzeroFlag_eq_true_iff.mpr hs]

theorem cwOutPort_of_column {k j : Nat} {w : Bits} (hj : j < codeLen k)
    (hs : syndromeOf k w = column (checkMatrix k) j) :
    cwOutPort k .correct w = vxor w (onehot (codeLen k) j) := by
  simp [cwOutPort, hs, matchLines_column hj]

@[simp] theorem bitErrorPort_correct (k : Nat) (w : Bits) : bitErrorPort k .correct w = false := by
  simp [bitErrorPort, bitErrorFlag]

theorem bitErrorPort_detect_of_ne_zeros {k : Nat} {w : Bits} (hs : syndromeOf k w ≠ zeros (minimalP k)) :
    bitErrorPort k .detect w = true := by
  simp [bitErrorPort, bitErrorFlag, synNonzeroFlag_eq_true_iff.mpr hs]

theorem noMatchPort_of_column {k j : Nat} {w : Bits} (hj : j < codeLen k)
    (hs : syndromeOf k w = column (checkMatrix k) j) : noMatchPort k .correct w = false := by
  simp [noMatchPort, noMatchFlag, hs, matchLines_column hj, errValidFlag_onehot hj]

/-- `COR` in `CORRECT` mode on a word whose syndrome is column `j`: the word with position `j` flipped is the result and
stands on `cw_out`; no failure output is raised and the run is not marked (R87, R88). -/
theorem exec_cor_of_column {s : State} {w : Bits} {j : Nat} (hk : 1 ≤ s.k) (hmode : s.mode = .correct)
    (hl : w.length = codeLen s.k) (hj : j < codeLen s.k) (hs : syndromeOf s.k w = column (checkMatrix s.k) j) :
    ∃ t, exec (.cor w) s = .next t ∧
      t.outcomes = s.outcomes ++ [.ok (.corrected (vxor w (onehot (codeLen s.k) j)))] ∧ t.runFault = s.runFault ∧
      t.cwOut = vxor w (onehot (codeLen s.k) j) ∧ t.bitError = false ∧ t.noMatch = false := by
  refine ⟨_, exec_cor_of_valid hk hl, ?_⟩
  rw [hmode, checkCorrect_of_column hj hs]
  simp [State.correctorOutcome, State.cwOut, State.bitError, State.noMatch, hmode, cwOutPort_of_column hj hs,
    noMatchPort_of_column hj hs]

/-- `COR` in `DETECT` mode on a word of nonzero syndrome: `BitError`, and the word stands on `cw_in` and on `cw_out` as
it was (R87, R88). -/
theorem exec_cor_detect_of_ne_zeros {s : State} {w : Bits} (hk : 1 ≤ s.k) (hmode : s.mode = .detect)
    (hl : w.length = codeLen s.k) (hs : syndromeOf s.k w ≠ zeros (minimalP s.k)) :
    ∃ t, exec (.cor w) s = .next t ∧ t.outcomes = s.outcomes ++ [.fail .bitError] ∧ t.cwOut = w ∧ t.corCwIn = w ∧
      t.bitError = true := by
  refine ⟨_, exec_cor_of_valid hk hl, ?_⟩
  rw [hmode, checkCorrect_detect_of_ne_zeros hs]
  simp [State.correctorOutcome, State.cwOut, State.bitError, hmode, cwOutPort, bitErrorPort_detect_of_ne_zeros hs]

end Sys2Proof.Machine
end

section
/-! SUPPORT. What `COR` does with one and with two flipped bits of a codeword (45_corrector.md R89, R90, R92). -/

namespace Sys2Proof.Machine

/-- Settles O38: the syndrome is the column of the flipped bit, so `COR` flips that bit back. -/
theorem singleBitErrorsCorrected : Obligations.SingleBitErrorsCorrected := by
  intro s m j hk hmode hm hj
  have hrestore : vxor (vxor (encodeWord s.k m) (onehot (codeLen s.k) j)) (onehot (codeLen s.k) j) = encodeWord s.k m :=
    vxor_vxor_cancel (by simp)
  obtain ⟨t, hexec, hout, -, hcw, hbit, hno⟩ :=
    exec_cor_of_column hk hmode (by simp) hj (syndromeOf_one_flip hm hj)
  rw [hrestore] at hout hcw
  exact ⟨t, hexec, hout, hcw, hbit, hno⟩

/-- Settles O39: one column is not zero, and two different ones do not cancel. -/
theorem detectModeRejectsOneAndTwoFlips : Obligations.DetectModeRejectsOneAndTwoFlips := by
  intro s m a b hk hmode hm ha hb
  constructor
  · have hs := syndromeOf_one_flip hm ha ▸ column_checkMatrix_ne_zeros ha
    obtain ⟨t, h⟩ := exec_cor_detect_of_ne_zeros hk hmode (by simp) hs
    exact ⟨t, _, rfl, h⟩
  · intro hab
    have hs := syndromeOf_two_flips hm ha hb ▸ vxor_columns_ne_zeros ha hb hab
    obtain ⟨t, h⟩ := exec_cor_detect_of_ne_zeros hk hmode (by simp) hs
    exact ⟨t, _, rfl, h⟩

/-- Settles O41: the third column is neither of the two, so `COR` flips a third bit; the syndrome becomes zero and the
error pattern has weight three. In a perfect code every nonzero syndrome is a column. -/
theorem twoBitErrorsMisdecodeSilently : Obligations.TwoBitErrorsMisdecodeSilently := by
  intro s m a b hk hmode hm ha hb hab
  have hsum := syndromeOf_two_flips hm ha hb
  refine ⟨_, rfl, hsum, fun j hj hcol => ?_, fun hperf => ?_⟩
  · have hja : j ≠ a := by
      rintro rfl
      exact column_ne_vxor_columns hb (hcol.trans hsum)
    have hjb : j ≠ b := by
      rintro rfl
      exact column_ne_vxor_columns ha ((hcol.trans hsum).trans (vxor_comm _ _))
    obtain ⟨t, hexec, hout, hfault, hcw, hbit, hno⟩ := exec_cor_of_column hk hmode (by simp) hj hcol.symm
    exact ⟨hja, hjb, t, _, rfl, hexec, hout, hfault, hcw, hbit, hno, syndromeOf_flip_of_column (by simp) hj hcol.symm,
      weight_vxor_three_flips (length_encodeWord s.k m) ha hb hj hab hja hjb⟩
  · exact exists_column_of_perfect hperf (length_syndromeOf _ _) (hsum ▸ vxor_columns_ne_zeros ha hb hab)

end Sys2Proof.Machine
end

section
/-! SUPPORT. Descriptors read back: the decoder inverts the encoder, and a step runs what its descriptor decodes to
(30_encoding.md R43 to R46; 70_reset_and_hazards.md R126). -/

namespace Sys2Proof

/-- An identifier and an operand name an operation exactly when they are that operation's own (R42). -/
theorem instrOfId_eq_some_iff {id : Nat} {v : Bits} {i : Instr} :
    instrOfId id v = some i ↔ i.opId = id ∧ i.operand = v := by
  constructor
  · intro h
    unfold instrOfId at h
    split at h <;> cases h <;> exact ⟨rfl, rfl⟩
  · rintro ⟨rfl, rfl⟩
    cases i <;> rfl

theorem wellFormed_eq_true_iff {k : Nat} {i : Instr} :
    wellFormed k i = true ↔ i.operand.length = i.operandLen k := by
  simp [wellFormed]

/-- A well-formed operation is read back from its descriptor. -/
theorem decode_encode {k : Nat} {i : Instr} (hw : wellFormed k i = true) : decode k (encode i) = .ok i := by
  rw [encode, decode_of_instrOfId_some i.opId_lt_eight (instrOfId_eq_some_iff.mpr ⟨rfl, rfl⟩),
    if_pos (wellFormed_eq_true_iff.mp hw)]

/-- What a descriptor that is read says: its identifier, its operand and its width (R44). -/
theorem layout_of_decode {k : Nat} {d : Descriptor} {i : Instr} (h : decode k d = .ok i) :
    i.opId = portInt (d.take 3) ∧ i.operand = d.drop 3 ∧ d.length = 3 + i.operandLen k := by
  unfold decode at h
  split at h
  · cases h
  · next i' hid =>
    split at h
    · next hlen =>
      cases h
      obtain ⟨hop, hv⟩ := instrOfId_eq_some_iff.mp hid
      exact ⟨hop, hv, hlen⟩
    · cases h

theorem wellFormed_of_decode {k : Nat} {d : Descriptor} {i : Instr} (h : decode k d = .ok i) :
    wellFormed k i = true := by
  obtain ⟨-, hv, hlen⟩ := layout_of_decode h
  rw [wellFormed_eq_true_iff, hv, List.length_drop, hlen, Nat.add_sub_cancel_left]

/-- A descriptor that is read is the descriptor of the operation it gives. -/
theorem encode_of_decode {k : Nat} {d : Descriptor} {i : Instr} (h : decode k d = .ok i) : encode i = d := by
  obtain ⟨hop, hv, hlen⟩ := layout_of_decode h
  have hthree : (d.take 3).length = 3 := by rw [List.length_take]; omega
  have hid : ofPortInt 3 (portInt (d.take 3)) = d.take 3 := by
    simpa only [hthree] using ofPortInt_portInt (d.take 3)
  rw [encode, hop, hv, hid, List.take_append_drop]

/-- Settles O14: the identifier and the operand determine the operation, and the width its well-formedness. -/
theorem decodeEncodeRoundTrip : Obligations.DecodeEncodeRoundTrip :=
  ⟨fun _ _ => decode_encode, fun _ _ _ h => ⟨wellFormed_of_decode h, encode_of_decode h⟩⟩

/-- Settles O17: each word is evaluated. -/
theorem decodeSampleWords : Obligations.DecodeSampleWords := by
  unfold Obligations.DecodeSampleWords
  decide

end Sys2Proof

namespace Sys2Proof.Machine

theorem step_of_nil {s : State} (hp : s.pending = []) : step s = .next s := by
  simp [step, hp]

theorem step_of_decode_ok {s : State} {d : Descriptor} {rest : List Descriptor} {i : Instr}
    (hp : s.pending = d :: rest) (hd : decode s.k d = .ok i) : step s = exec i { s with pending := rest } := by
  simp [step, hp, hd]

theorem step_of_decode_error {s : State} {d : Descriptor} {rest : List Descriptor} {e : DecodeError}
    (hp : s.pending = d :: rest) (hd : decode s.k d = .error e) : step s = .refused (refusalOf e) := by
  simp [step, hp, hd]

/-- Settles O18: one step equation per answer of the decoder, and one for the empty run. -/
theorem stepRunsDecoded : Obligations.StepRunsDecoded := by
  refine ⟨fun s i rest hw hp => step_of_decode_ok hp (decode_encode hw), fun s d rest i => step_of_decode_ok,
    fun s d rest hp => ⟨fun id hd => ?_, fun hd => ?_⟩, fun s => step_of_nil⟩
  · exact step_of_decode_error hp hd
  · exact step_of_decode_error hp hd

end Sys2Proof.Machine
end

section
/-! SUPPORT. The order and the indices of the candidates, and how `n` grows with `k` (40_code_construction.md R55, R65;
70_reset_and_hazards.md R120). -/

namespace Sys2Proof

theorem pairwise_lt_cand (p : Nat) : (cand p).Pairwise (· < ·) :=
  List.pairwise_lt_range.filter _

/-- Settles O4: a filtered range keeps its order, and what it leaves out are 0 and the `p` powers of two. -/
theorem candidatesAreNonPowersOfTwo : Obligations.CandidatesAreNonPowersOfTwo :=
  fun p => ⟨pairwise_lt_cand p, fun _ => mem_cand_iff, length_cand p⟩

/-! ### The index of a candidate -/

/-- In a strictly ascending list the elements below the one at index `i` are the first `i`. -/
theorem filter_lt_eq_take {l : List Nat} (hl : l.Pairwise (· < ·)) {i x : Nat} (hx : l[i]? = some x) :
    l.filter (· < x) = l.take i := by
  obtain ⟨hi, hx⟩ := List.getElem?_eq_some_iff.mp hx
  rw [List.pairwise_iff_getElem] at hl
  have hbelow : (l.take i).filter (· < x) = l.take i := by
    refine List.filter_eq_self.mpr fun y hy => ?_
    obtain ⟨j, hj, rfl⟩ := List.mem_take_iff_getElem.mp hy
    simpa [← hx] using hl j i (by omega) hi (by omega)
  have habove : (l.drop i).filter (· < x) = [] := by
    refine List.filter_eq_nil_iff.mpr fun y hy => ?_
    obtain ⟨j, hj, rfl⟩ := List.mem_drop_iff_getElem.mp hy
    obtain rfl | hpos := Nat.eq_zero_or_pos j
    · simp [hx]
    · simpa [← hx] using (hl i (i + j) hi (by omega) (by omega)).le
  rw [← List.take_append_drop i l, List.filter_append, hbelow, habove, List.append_nil, List.take_append_drop]

/-- No power of two lies strictly between two neighbouring ones. -/
theorem not_two_pow_of_between {e y : Nat} (hlo : 2 ^ e < y) (hhi : y < 2 ^ (e + 1)) : ¬ ∃ i, y = 2 ^ i := by
  rintro ⟨i, rfl⟩
  have h₁ : e < i := (Nat.pow_lt_pow_iff_right (by decide)).mp hlo
  have h₂ : i < e + 1 := (Nat.pow_lt_pow_iff_right (by decide)).mp hhi
  omega

/-- A candidate lies strictly between two neighbouring powers of two. -/
theorem between_two_pow_of_mem_cand {p x : Nat} (hx : x ∈ cand p) : 2 ^ Nat.log2 x < x ∧ x < 2 ^ (Nat.log2 x + 1) := by
  obtain ⟨hpos, -, hpow⟩ := mem_cand_iff.mp hx
  have hle := Nat.log2_self_le (n := x) (by omega)
  exact ⟨lt_of_le_of_ne hle fun h => hpow ⟨_, h.symm⟩, Nat.lt_log2_self⟩

/-- The candidates below a candidate `x`: those below the largest power of two under `x`, and everything in between. -/
theorem toFinset_cand_lt {p x : Nat} (hx : x ∈ cand p) :
    ((cand p).filter (· < x)).toFinset = (cand (Nat.log2 x)).toFinset ∪ Finset.Ioo (2 ^ Nat.log2 x) x := by
  obtain ⟨hlo, hhi⟩ := between_two_pow_of_mem_cand hx
  obtain ⟨-, hxp, -⟩ := mem_cand_iff.mp hx
  ext y
  simp only [List.mem_toFinset, List.mem_filter, decide_eq_true_iff, Finset.mem_union, Finset.mem_Ioo, mem_cand_iff]
  constructor
  · rintro ⟨⟨hpos, -, hpow⟩, hyx⟩
    obtain hlt | heq | hgt := lt_trichotomy y (2 ^ Nat.log2 x)
    · exact .inl ⟨hpos, hlt, hpow⟩
    · exact absurd ⟨_, heq⟩ hpow
    · exact .inr ⟨hgt, hyx⟩
  · rintro (⟨hpos, hy, hpow⟩ | ⟨hy, hyx⟩)
    · exact ⟨⟨hpos, by omega, hpow⟩, by omega⟩
    · exact ⟨⟨by omega, by omega, not_two_pow_of_between hy (hyx.trans hhi)⟩, hyx⟩

theorem length_cand_lt {p x : Nat} (hx : x ∈ cand p) : ((cand p).filter (· < x)).length = Machine.candIndex x := by
  have hdisj : Disjoint (cand (Nat.log2 x)).toFinset (Finset.Ioo (2 ^ Nat.log2 x) x) := by
    refine Finset.disjoint_left.mpr fun y hy hy' => ?_
    have := (mem_cand_iff.mp (List.mem_toFinset.mp hy)).2.1
    have := (Finset.mem_Ioo.mp hy').1
    omega
  obtain ⟨hlo, -⟩ := between_two_pow_of_mem_cand hx
  have hexp : Nat.log2 x < 2 ^ Nat.log2 x := Nat.lt_two_pow_self
  rw [← List.toFinset_card_of_nodup ((nodup_cand p).filter _), toFinset_cand_lt hx, Finset.card_union_of_disjoint hdisj,
    List.toFinset_card_of_nodup (nodup_cand _), length_cand, Nat.card_Ioo, Machine.candIndex]
  omega

/-- Settles O9: the index counts the candidates below. -/
theorem candidateIndexClosedForm : Obligations.CandidateIndexClosedForm := by
  intro p i x hx
  have hi : i < (cand p).length := (List.getElem?_eq_some_iff.mp hx).1
  rw [← length_cand_lt (List.mem_of_getElem? hx), filter_lt_eq_take (pairwise_lt_cand p) hx,
    List.length_take_of_le hi.le]

/-! ### The length of a codeword -/

theorem minimalP_mono {k k' : Nat} (h : k ≤ k') : minimalP k ≤ minimalP k' := by
  by_contra hlt
  have h₁ := bound_lt_of_lt_minimalP (Nat.lt_of_not_le hlt)
  have h₂ := le_minimalP_bound k'
  omega

/-- Settles O11: `p` never falls as `k` grows, so `n = k + p` grows with `k`. -/
theorem codeLengthStrictlyIncreases : Obligations.CodeLengthStrictlyIncreases := by
  intro k k' _ hlt
  have hp := minimalP_mono hlt.le
  rw [codeLen, codeLen]
  omega

end Sys2Proof
end

section
/-! SUPPORT. Products element by element, and the integers of vectors (30_encoding.md R36 to R38;
40_code_construction.md R52). -/

namespace Sys2Proof

/-- The inner product as a sum over the positions (R52). -/
theorem dot_eq_xorAll_range {u v : Bits} (h : u.length = v.length) :
    dot u v = xorAll ((List.range v.length).map fun c => bitAt u c && bitAt v c) := by
  rw [dot]
  refine congrArg xorAll (List.ext_getElem (by simp [h]) fun c hc _ => ?_)
  obtain ⟨hu, hv⟩ : c < u.length ∧ c < v.length := by simpa using hc
  simp [bitAt_eq_getElem hu, bitAt_eq_getElem hv]

/-- An element of a product (R52). -/
theorem bitAt_matVec_eq_xorAll {M : Matrix} {v : Bits} {r : Nat} (hrow : ∀ row ∈ M, row.length = v.length)
    (hr : r < M.length) :
    bitAt (matVec M v) r = xorAll ((List.range v.length).map fun c => entry M r c && bitAt v c) := by
  rw [bitAt_matVec hr, dot_eq_xorAll_range (hrow _ (List.getElem_mem hr))]
  simp [entry_of_lt hr]

/-- Settles O12: an element of the product is the inner product of a row with the vector. -/
theorem matrixProductElementwise : Obligations.MatrixProductElementwise :=
  fun M v hrow => ⟨length_matVec M v, fun _ => bitAt_matVec_eq_xorAll hrow⟩

/-- Settles O13: both forms are the port forms read from the other end. -/
theorem colvalInvertsBinP : Obligations.ColvalInvertsBinP :=
  ⟨fun _ _ => colval_binP, binP_colval, portInt_reverse⟩

end Sys2Proof
end

section
/-! SUPPORT. The values of the columns of `H`, and the columns of `G` as codewords (40_code_construction.md R60 to
R62). -/

namespace Sys2Proof

@[simp] theorem length_colVals (k : Nat) : (colVals k).length = codeLen k := by simp [colVals]

/-- A number below `2^p` is the value of a column exactly when its rendering is a column. -/
theorem colval_mem_colVals_iff {k : Nat} {s : Bits} (hs : s.length = minimalP k) :
    colval s ∈ colVals k ↔ ∃ j, j < codeLen k ∧ column (checkMatrix k) j = s := by
  simp only [colVals, List.mem_map, List.mem_range]
  refine exists_congr fun j => and_congr_right fun _ => ⟨fun h => ?_, fun h => by rw [h]⟩
  have hcol := binP_colval (column (checkMatrix k) j)
  rw [h, length_column, length_checkMatrix, ← hs, binP_colval] at hcol
  exact hcol.symm

theorem colval_column_data {k j : Nat} (hj : j < k) :
    colval (column (checkMatrix k) j) = (cand (minimalP k))[j]'(hj.trans_le (le_length_cand k)) := by
  rw [column_checkMatrix_data hj, colval_binP (mem_cand.mp (List.getElem_mem _)).1]

theorem colval_column_parity {k t : Nat} (ht : t < minimalP k) :
    colval (column (checkMatrix k) (k + t)) = 2 ^ (minimalP k - 1 - t) := by
  rw [column_checkMatrix_parity ht, ← binP_two_pow ht,
    colval_binP (Nat.pow_lt_pow_right (by decide) (by omega))]

/-- The values in order: the first `k` candidates, then the falling powers of two (R60). -/
theorem colVals_eq_append (k : Nat) :
    colVals k = (cand (minimalP k)).take k ++ (List.range (minimalP k)).map fun t => 2 ^ (minimalP k - 1 - t) := by
  rw [colVals, codeLen, List.range_add, List.map_append, List.map_map]
  refine congrArg₂ (· ++ ·) (List.ext_getElem (by simp [le_length_cand]) fun j hj _ => ?_)
    (List.map_congr_left fun t ht => colval_column_parity (List.mem_range.mp ht))
  have hj : j < k := by simpa using hj
  simp [colval_column_data hj]

theorem nodup_colVals (k : Nat) : (colVals k).Nodup := by
  refine List.nodup_range.map_on fun i hi j hj h => ?_
  have hbin : ∀ c, column (checkMatrix k) c = binP (minimalP k) (colval (column (checkMatrix k) c)) := fun c => by
    simpa using (binP_colval (column (checkMatrix k) c)).symm
  exact column_checkMatrix_injective (List.mem_range.mp hi) (List.mem_range.mp hj) (by rw [hbin i, h, ← hbin j])

theorem zero_notMem_colVals (k : Nat) : 0 ∉ colVals k := by
  have hzero : colval (zeros (minimalP k)) = 0 := by rw [← binP_zero, colval_binP (by positivity)]
  rw [← hzero, colval_mem_colVals_iff (length_zeros _)]
  rintro ⟨j, hj, h⟩
  exact column_checkMatrix_ne_zeros hj h

theorem mem_colVals_of_perfect {k x : Nat} (hperf : perfect k = true) (hpos : 1 ≤ x) (hx : x < 2 ^ minimalP k) :
    x ∈ colVals k := by
  have hne : binP (minimalP k) x ≠ zeros (minimalP k) := fun h => by
    rw [← binP_zero] at h
    have := binP_injective hx (by positivity) h
    omega
  rw [← colval_binP hx, colval_mem_colVals_iff (length_binP _ _)]
  exact exists_column_of_perfect hperf (length_binP _ _) hne

/-- A code whose column values are all of `1 .. 2^p − 1` has enough columns to be perfect. -/
theorem perfect_of_forall_mem_colVals {k : Nat} (h : ∀ x, 1 ≤ x → x < 2 ^ minimalP k → x ∈ colVals k) :
    perfect k = true := by
  have hsub : Finset.Ico 1 (2 ^ minimalP k) ⊆ (colVals k).toFinset := fun x hx => by
    obtain ⟨hpos, hlt⟩ := Finset.mem_Ico.mp hx
    exact List.mem_toFinset.mpr (h x hpos hlt)
  have hcard := Finset.card_le_card hsub
  rw [Nat.card_Ico, List.toFinset_card_of_nodup (nodup_colVals k), length_colVals, codeLen] at hcard
  have hle := le_minimalP_bound k
  exact decide_eq_true (by omega)

/-- Settles O8: the columns are the renderings of these values; different columns have different values, and counting
them decides whether the code is perfect. -/
theorem columnValuesDistinctNonzero : Obligations.ColumnValuesDistinctNonzero :=
  fun k _ => ⟨colVals_eq_append k, nodup_colVals k, zero_notMem_colVals k,
    fun hperf _ => mem_colVals_of_perfect hperf, perfect_of_forall_mem_colVals⟩

/-- A column of `G` is the codeword of a one-hot message. -/
theorem column_genMatrix {k c : Nat} (hc : c < k) :
    column (genMatrix k) c = Machine.encodeWord k (onehot k c) :=
  (matVec_onehot (fun _ => length_of_mem_genMatrix) hc).symm

/-- Settles O10: codewords have zero syndrome. -/
theorem checkTimesGeneratorIsZero : Obligations.CheckTimesGeneratorIsZero := by
  intro k c _ hc
  rw [column_genMatrix hc]
  exact Machine.syndromeOf_encodeWord (length_onehot k c)

end Sys2Proof
end

section
/-! SUPPORT. The position of a syndrome, and the look-up table as its closed form (20_memory.md R26;
44_error_position.md R79, R83 to R85). -/

namespace Sys2Proof.Machine

/-! ### The column search -/

theorem positionOf_of_no_column {k : Nat} {s : Bits} (hs : s.length = minimalP k)
    (h : ∀ j < codeLen k, s ≠ column (checkMatrix k) j) : positionOf k s = none := by
  rw [positionOf, matchLines_of_no_column hs h]
  simp [zeros]

/-- The search finds the index of the column that is the syndrome (R79). -/
theorem positionOf_eq_some_iff {k j : Nat} {s : Bits} (hs : s.length = minimalP k) :
    positionOf k s = some j ↔ j < codeLen k ∧ column (checkMatrix k) j = s := by
  constructor
  · intro h
    by_cases hcol : ∃ i < codeLen k, s = column (checkMatrix k) i
    · obtain ⟨i, hi, rfl⟩ := hcol
      rw [positionOf_column hi, Option.some_inj] at h
      subst h
      exact ⟨hi, rfl⟩
    · rw [positionOf_of_no_column hs (by simpa using hcol)] at h
      cases h
  · rintro ⟨hj, rfl⟩
    exact positionOf_column hj

theorem positionOf_eq_none_iff {k : Nat} {s : Bits} (hs : s.length = minimalP k) :
    positionOf k s = none ↔ ¬ ∃ j, j < codeLen k ∧ column (checkMatrix k) j = s := by
  simp only [Option.eq_none_iff_forall_ne_some, ne_eq, positionOf_eq_some_iff hs, not_exists]

theorem positionOf_eq_none_iff_notMem_colVals {k : Nat} {s : Bits} (hs : s.length = minimalP k) :
    positionOf k s = none ↔ colval s ∉ colVals k := by
  rw [positionOf_eq_none_iff hs, colval_mem_colVals_iff hs]

/-- The zero syndrome matches nothing (R83). -/
theorem positionOf_zeros (k : Nat) : positionOf k (zeros (minimalP k)) = none := by
  rw [positionOf_eq_none_iff (length_zeros _)]
  rintro ⟨j, hj, h⟩
  exact column_checkMatrix_ne_zeros hj h

theorem positionOf_of_perfect {k : Nat} {s : Bits} (hperf : perfect k = true) (hs : s.length = minimalP k)
    (hne : s ≠ zeros (minimalP k)) : ∃ j, j < codeLen k ∧ positionOf k s = some j := by
  obtain ⟨j, hj, rfl⟩ := exists_column_of_perfect hperf hs hne
  exact ⟨j, hj, positionOf_column hj⟩

/-- Settles O31: the search finds a column exactly when the syndrome is one. -/
theorem positionNoneExactly : Obligations.PositionNoneExactly :=
  fun k _ _ hs => ⟨positionOf_eq_none_iff_notMem_colVals hs, positionOf_zeros k,
    fun hperf hne => positionOf_of_perfect hperf hs hne⟩

/-! ### The look-up table -/

/-- The candidate at index `i` has the closed form's index `i`, and is neither zero nor a power of two (R65). -/
theorem lutEntry_cand {k i : Nat} (hi : i < k) :
    lutEntry k ((cand (minimalP k))[i]'(hi.trans_le (le_length_cand k))) = some i := by
  have hlen := hi.trans_le (le_length_cand k)
  obtain ⟨hpos, -, -⟩ := mem_cand_iff.mp (List.getElem_mem hlen)
  obtain ⟨hlo, -⟩ := between_two_pow_of_mem_cand (List.getElem_mem hlen)
  rw [lutEntry, if_neg (by omega), if_neg hlo.ne', candidateIndexClosedForm _ i _ (List.getElem?_eq_getElem hlen),
    if_pos hi]

theorem lutEntry_two_pow (k e : Nat) : lutEntry k (2 ^ e) = some (k + (minimalP k - 1 - e)) := by
  simp [lutEntry, Nat.log2_two_pow]

/-- The table holds the index of every column at the column's value (R85). -/
theorem lutEntry_column {k j : Nat} (hj : j < codeLen k) :
    lutEntry k (colval (column (checkMatrix k) j)) = some j := by
  by_cases hd : j < k
  · rw [colval_column_data hd, lutEntry_cand hd]
  · obtain ⟨t, rfl⟩ := Nat.exists_eq_add_of_le (Nat.le_of_not_lt hd)
    have ht : t < minimalP k := by simpa [codeLen] using hj
    rw [colval_column_parity ht, lutEntry_two_pow, Nat.sub_sub_self (by omega)]

/-- Every number of `p` bits at which the table holds an index is the value of a column. -/
theorem mem_colVals_of_lutEntry {k x : Nat} (hx : x < 2 ^ minimalP k) (h : lutEntry k x ≠ none) : x ∈ colVals k := by
  rw [colVals_eq_append, List.mem_append]
  unfold lutEntry at h
  split at h
  · exact absurd rfl h
  · next h0 =>
    split at h
    · next hpow =>
      have he : Nat.log2 x < minimalP k := (Nat.pow_lt_pow_iff_right (by decide)).mp (hpow ▸ hx)
      refine .inr (List.mem_map.mpr ⟨minimalP k - 1 - Nat.log2 x, List.mem_range.mpr (by omega), ?_⟩)
      rw [Nat.sub_sub_self (by omega), ← hpow]
    · next hpow =>
      split at h
      · next hidx =>
        have hnot : ¬ ∃ i, x = 2 ^ i := by
          rintro ⟨i, rfl⟩
          exact hpow (by rw [Nat.log2_two_pow])
        obtain ⟨i, hi, rfl⟩ := List.getElem_of_mem (mem_cand_iff.mpr ⟨Nat.one_le_iff_ne_zero.mpr h0, hx, hnot⟩)
        rw [candidateIndexClosedForm _ i _ (List.getElem?_eq_getElem hi)] at hidx
        exact .inl (List.mem_take_iff_getElem.mpr ⟨i, by omega, rfl⟩)
      · exact absurd rfl h

/-- The column search and the closed form agree on every syndrome (R85). -/
theorem positionOf_eq_lutEntry {k : Nat} {s : Bits} (hs : s.length = minimalP k) :
    positionOf k s = lutEntry k (colval s) := by
  by_cases hcol : ∃ j, j < codeLen k ∧ column (checkMatrix k) j = s
  · obtain ⟨j, hj, rfl⟩ := hcol
    rw [positionOf_column hj, lutEntry_column hj]
  · rw [(positionOf_eq_none_iff hs).mpr hcol, eq_comm]
    by_contra h
    exact hcol ((colval_mem_colVals_iff hs).mp (mem_colVals_of_lutEntry (hs ▸ colval_lt s) h))

/-- Settles O30: the closed form holds each column's index at its value and nothing elsewhere. -/
theorem positionLookupClosedForm : Obligations.PositionLookupClosedForm := by
  intro k s _ hs
  refine ⟨positionOf_eq_lutEntry hs, ?_⟩
  have hx : colval s < 2 ^ minimalP k := hs ▸ colval_lt s
  simp [lutTable, hx, positionOf_eq_lutEntry hs]

end Sys2Proof.Machine
end

section
/-! SUPPORT. Encoding and the syndrome bit by bit, and the laws of codewords (41_encoder.md R68, R69; 42_extract.md R73;
43_syndrome.md R75 to R77). -/

namespace Sys2Proof.Machine

/-! ### Bit by bit -/

/-- Parity bit `j` is the sum of the message bits that feed it (R68). -/
theorem bitAt_encodeWord_parity {k j : Nat} {m : Bits} (hm : m.length = k) (hj : j < minimalP k) :
    bitAt (encodeWord k m) (k + j) =
      xorAll ((List.range k).map fun i => entry (parityMatrix k) i j && bitAt m i) := by
  have hrow : ∀ row ∈ genMatrix k, row.length = m.length := fun _ h => (length_of_mem_genMatrix h).trans hm.symm
  rw [encodeWord, bitAt_matVec_eq_xorAll hrow (by simpa [codeLen] using hj), hm]
  refine congrArg xorAll (List.map_congr_left fun c hc => ?_)
  rw [entry_genMatrix_parity hj (List.mem_range.mp hc)]

/-- Settles O32: a message row of `G` copies its bit, a parity row is a column of `P`. -/
theorem encodeIsSystematic : Obligations.EncodeIsSystematic :=
  fun _ _ _ hm => ⟨fun _ => bitAt_encodeWord_message hm, fun _ => bitAt_encodeWord_parity hm⟩

/-- The syndrome adds the parity of the received message to the received parity bits (R75). -/
theorem syndromeOf_eq_vxor {k : Nat} {w : Bits} (hw : w.length = codeLen k) :
    syndromeOf k w =
      vxor (matVec (transpose (minimalP k) (parityMatrix k)) (extractMessage k w)) (w.drop k) := by
  have hk : k ≤ w.length := by simp [hw, codeLen]
  have hrow : ∀ row ∈ transpose (minimalP k) (parityMatrix k), row.length = (w.take k).length :=
    fun row hr => (length_of_mem_parityBlock row hr).trans (length_extractMessage hk).symm
  conv_lhs => rw [syndromeOf, checkMatrix, ← List.take_append_drop k w]
  rw [matVec_hcat (by simp) hrow, matVec_identity (by simp [hw, codeLen]), extractMessage]

/-- The recomputed parity bits are those of the codeword of the received message. -/
theorem drop_encodeWord {k : Nat} {m : Bits} (hm : m.length = k) :
    (encodeWord k m).drop k = matVec (transpose (minimalP k) (parityMatrix k)) m := by
  rw [encodeWord_eq_append hm, List.drop_left' hm]

theorem bitAt_drop (v : Bits) (k r : Nat) : bitAt (v.drop k) r = bitAt v (k + r) := by
  simp [bitAt]

/-- Settles O34: element `r` of the recomputed parity, added to element `r` of the received parity. -/
theorem syndromeComparesParity : Obligations.SyndromeComparesParity := by
  intro k w _ hw r hr
  have hm : (extractMessage k w).length = k := length_extractMessage (by simp [hw, codeLen])
  rw [syndromeOf_eq_vxor hw, bitAt_vxor (by simpa using hr) (by simpa [hw, codeLen] using hr), ← drop_encodeWord hm,
    bitAt_drop, bitAt_drop]

/-! ### Codewords -/

/-- A word of zero syndrome is the codeword of its message: its parity bits are the recomputed ones (R76). -/
theorem encodeWord_extractMessage {k : Nat} {w : Bits} (hw : w.length = codeLen k)
    (hs : syndromeOf k w = zeros (minimalP k)) : encodeWord k (extractMessage k w) = w := by
  have hm : (extractMessage k w).length = k := length_extractMessage (by simp [hw, codeLen])
  have hparity : matVec (transpose (minimalP k) (parityMatrix k)) (extractMessage k w) = w.drop k := by
    refine (vxor_eq_zeros (by simp [hw, codeLen])).mp ?_
    rw [← syndromeOf_eq_vxor hw, hs, length_matVec, length_transpose]
  rw [encodeWord_eq_append hm, hparity, extractMessage, List.take_append_drop]

/-- Settles O35: both equivalences close the same circle through the extracted message. -/
theorem zeroSyndromeIffCodeword : Obligations.ZeroSyndromeIffCodeword := by
  intro k w _ hw
  have hm : (extractMessage k w).length = k := length_extractMessage (by simp [hw, codeLen])
  have hzero : ∀ m : Bits, m.length = k → encodeWord k m = w → syndromeOf k w = zeros (minimalP k) := by
    intro m hm h
    rw [← h, syndromeOf_encodeWord hm]
  exact ⟨⟨fun hs => ⟨_, hm, encodeWord_extractMessage hw hs⟩, fun ⟨m, hm, h⟩ => hzero m hm h⟩,
    ⟨encodeWord_extractMessage hw, hzero _ hm⟩⟩

/-- Encoding is linear (R69). -/
theorem encodeWord_vxor {k : Nat} {a b : Bits} (h : a.length = b.length) :
    encodeWord k (vxor a b) = vxor (encodeWord k a) (encodeWord k b) :=
  matVec_vxor _ h

theorem encodeWord_injective {k : Nat} {a b : Bits} (ha : a.length = k) (hb : b.length = k)
    (h : encodeWord k a = encodeWord k b) : a = b := by
  rw [← extractMessage_encodeWord ha, h, extractMessage_encodeWord hb]

/-! ### Error patterns -/

/-- The syndrome of a received word is that of the error (R77). -/
theorem syndromeOf_encodeWord_vxor {k : Nat} {m e : Bits} (hm : m.length = k) (he : e.length = codeLen k) :
    syndromeOf k (vxor (encodeWord k m) e) = syndromeOf k e := by
  have hadd : syndromeOf k (vxor (encodeWord k m) e) = vxor (syndromeOf k (encodeWord k m)) (syndromeOf k e) :=
    matVec_vxor _ (by simp [he])
  have hlen : minimalP k = (syndromeOf k e).length := by simp
  rw [hadd, syndromeOf_encodeWord hm, vxor_comm, hlen, vxor_zeros]

/-- Settles O37: the codeword's own part vanishes, and of two different columns neither is zero nor cancels the
other. -/
theorem syndromeDependsOnErrorOnly : Obligations.SyndromeDependsOnErrorOnly := by
  intro k m _ hm
  refine ⟨fun e => syndromeOf_encodeWord_vxor hm,
    fun j hj => ⟨syndromeOf_one_flip hm hj, column_checkMatrix_ne_zeros hj⟩, fun a b ha hb hab => ?_⟩
  refine ⟨_, rfl, syndromeOf_two_flips hm ha hb, ?_⟩
  rw [syndromeOf_two_flips hm ha hb]
  refine ⟨vxor_columns_ne_zeros ha hb hab, (column_ne_vxor_columns hb).symm, ?_⟩
  rw [vxor_comm]
  exact (column_ne_vxor_columns ha).symm

/-- A vector that is not zero is a flip of one with a weight less by one. -/
theorem exists_flip_of_weight_succ {v : Bits} {d : Nat} (h : weight v = d + 1) :
    ∃ w i, w.length = v.length ∧ i < v.length ∧ bitAt w i = false ∧ v = vxor w (onehot v.length i) ∧ weight w = d := by
  have hmem : true ∈ v := List.count_pos_iff.mp (by rw [weight] at h; omega)
  obtain ⟨i, hi, hvi⟩ := List.getElem_of_mem hmem
  have hflip : vxor (vxor v (onehot v.length i)) (onehot v.length i) = v := vxor_vxor_cancel (by simp)
  have hbit : bitAt (vxor v (onehot v.length i)) i = false := by
    rw [bitAt_vxor hi (by simpa using hi), bitAt_onehot hi, bitAt_eq_getElem hi, hvi]
    simp
  have hweight := weight_vxor_onehot (by simp) hi hbit
  rw [hflip, h] at hweight
  exact ⟨_, i, by simp, hi, hbit, hflip.symm, by omega⟩

theorem syndromeOf_onehot {k j : Nat} (hj : j < codeLen k) :
    syndromeOf k (onehot (codeLen k) j) = column (checkMatrix k) j :=
  matVec_onehot (fun _ => length_of_mem_checkMatrix) hj

/-- A word of weight one has a column as its syndrome, one of weight two the sum of two different columns; so a word of
zero syndrome that is not zero has weight three at least. -/
theorem three_le_weight_of_zero_syndrome {k : Nat} {w : Bits} (hw : w.length = codeLen k)
    (hs : syndromeOf k w = zeros (minimalP k)) (hne : w ≠ zeros (codeLen k)) : 3 ≤ weight w := by
  by_contra hlt
  obtain h0 | h1 | h2 : weight w = 0 ∨ weight w = 1 ∨ weight w = 2 := by omega
  · exact hne (hw ▸ weight_eq_zero_iff.mp h0)
  · obtain ⟨a, ha, hwa⟩ := weight_eq_one_iff.mp h1
    rw [hw] at ha hwa
    rw [hwa, syndromeOf_onehot ha] at hs
    exact column_checkMatrix_ne_zeros ha hs
  · obtain ⟨v, b, hv, hb, hbit, hwv, hv1⟩ := exists_flip_of_weight_succ h2
    obtain ⟨a, ha, hva⟩ := weight_eq_one_iff.mp hv1
    rw [hv] at ha hva
    rw [hw] at ha hb hva hwv
    have hab : a ≠ b := by
      rintro rfl
      simp [hva, bitAt_onehot hb] at hbit
    rw [hwv, hva, syndromeOf_vxor_onehot (by simp) hb, syndromeOf_onehot ha] at hs
    exact vxor_columns_ne_zeros ha hb hab hs

/-- Two different codewords differ in at least three positions (R69): their sum is a codeword and not zero. -/
theorem three_le_weight_codewords {k : Nat} {a b : Bits} (ha : a.length = k) (hb : b.length = k) (hab : a ≠ b) :
    3 ≤ weight (vxor (encodeWord k a) (encodeWord k b)) := by
  refine three_le_weight_of_zero_syndrome (k := k) (by simp) ?_ fun h => hab (encodeWord_injective ha hb ?_)
  · rw [← encodeWord_vxor (ha.trans hb.symm), syndromeOf_encodeWord (by simp [ha, hb])]
  · exact (vxor_eq_zeros (by simp)).mp (by simpa using h)

/-- Settles O36: linearity and injectivity, and the distance from the weights of words of zero syndrome. -/
theorem encodeLinearWithDistanceThree : Obligations.EncodeLinearWithDistanceThree :=
  fun _ _ _ _ ha hb => ⟨encodeWord_vxor (ha.trans hb.symm), encodeWord_injective ha hb,
    three_le_weight_codewords ha hb⟩

end Sys2Proof.Machine
end

section
/-! SUPPORT. The table of `COR`: for each row the abstract outcome and the three ports together (45_corrector.md R87,
R88, R91; 60_exceptions.md R104). -/

namespace Sys2Proof.Machine

/-- What `COR` answers for a word: the abstract outcome of R87 and the ports `cw_out`, `bit_error` and `no_match` of
R88. -/
def CorAnswer (k : Nat) (mode : Mode) (w : Bits) (r : Except Failure Bits) (out : Bits) (bitError noMatch : Bool) :
    Prop :=
  checkCorrect k mode w = r ∧ cwOutPort k mode w = out ∧ bitErrorPort k mode w = bitError ∧
    noMatchPort k mode w = noMatch

theorem synNonzeroFlag_of_zeros {k : Nat} {w : Bits} (hs : syndromeOf k w = zeros (minimalP k)) :
    synNonzeroFlag (syndromeOf k w) = false := by
  rw [synNonzeroFlag, orAll_eq_false, length_syndromeOf, hs]

/-- The zero syndrome raises no line (R83). -/
theorem matchLines_zeros (k : Nat) : matchLines k (zeros (minimalP k)) = zeros (codeLen k) :=
  matchLines_of_no_column (length_zeros _) fun _ hj => (column_checkMatrix_ne_zeros hj).symm

theorem corAnswer_of_zeros {k : Nat} {w : Bits} (mode : Mode) (hw : w.length = codeLen k)
    (hs : syndromeOf k w = zeros (minimalP k)) : CorAnswer k mode w (.ok w) w false false := by
  have hflag := synNonzeroFlag_of_zeros hs
  have hout : vxor w (matchLines k (syndromeOf k w)) = w := by rw [hs, matchLines_zeros, ← hw, vxor_zeros]
  refine ⟨by simp [checkCorrect, hflag], ?_, by simp [bitErrorPort, bitErrorFlag, hflag],
    by simp [noMatchPort, noMatchFlag, hflag]⟩
  cases mode with
  | correct => exact hout
  | detect => rfl

theorem corAnswer_of_column {k j : Nat} {w : Bits} (hj : j < codeLen k)
    (hs : syndromeOf k w = column (checkMatrix k) j) :
    CorAnswer k .correct w (.ok (vxor w (onehot (codeLen k) j))) (vxor w (onehot (codeLen k) j)) false false :=
  ⟨checkCorrect_of_column hj hs, cwOutPort_of_column hj hs, bitErrorPort_correct k w, noMatchPort_of_column hj hs⟩

theorem corAnswer_of_no_column {k : Nat} {w : Bits} (hw : w.length = codeLen k)
    (hs : syndromeOf k w ≠ zeros (minimalP k)) (hcol : ∀ j < codeLen k, column (checkMatrix k) j ≠ syndromeOf k w) :
    CorAnswer k .correct w (.error .noColumnMatch) w false true := by
  have hflag := synNonzeroFlag_eq_true_iff.mpr hs
  have hne : ∀ j < codeLen k, syndromeOf k w ≠ column (checkMatrix k) j := fun j hj => (hcol j hj).symm
  have hpos : positionOf k (syndromeOf k w) = none := positionOf_of_no_column (length_syndromeOf k w) hne
  have hlines : matchLines k (syndromeOf k w) = zeros (codeLen k) := matchLines_of_no_column (length_syndromeOf k w) hne
  have hvalid : errValidFlag (matchLines k (syndromeOf k w)) = false := by rw [hlines, errValidFlag_zeros]
  refine ⟨?_, ?_, bitErrorPort_correct k w, ?_⟩
  · simp [checkCorrect, hflag, hpos]
  · rw [cwOutPort, hlines, ← hw, vxor_zeros]
  · simp [noMatchPort, noMatchFlag, hflag, hvalid]

theorem corAnswer_detect_of_ne_zeros {k : Nat} {w : Bits} (hs : syndromeOf k w ≠ zeros (minimalP k)) :
    CorAnswer k .detect w (.error .bitError) w true false :=
  ⟨checkCorrect_detect_of_ne_zeros hs, rfl, bitErrorPort_detect_of_ne_zeros hs, by simp [noMatchPort, noMatchFlag]⟩

/-- Every word falls under one of the four rows. -/
theorem corAnswer_cases {k : Nat} {w : Bits} (mode : Mode) (hw : w.length = codeLen k) :
    (syndromeOf k w = zeros (minimalP k) ∧ CorAnswer k mode w (.ok w) w false false) ∨
    (mode = .correct ∧ ∃ j < codeLen k, syndromeOf k w = column (checkMatrix k) j ∧
      CorAnswer k mode w (.ok (vxor w (onehot (codeLen k) j))) (vxor w (onehot (codeLen k) j)) false false) ∨
    (mode = .correct ∧ syndromeOf k w ≠ zeros (minimalP k) ∧
      (∀ j < codeLen k, column (checkMatrix k) j ≠ syndromeOf k w) ∧
      CorAnswer k mode w (.error .noColumnMatch) w false true) ∨
    (mode = .detect ∧ syndromeOf k w ≠ zeros (minimalP k) ∧ CorAnswer k mode w (.error .bitError) w true false) := by
  by_cases hs : syndromeOf k w = zeros (minimalP k)
  · exact .inl ⟨hs, corAnswer_of_zeros mode hw hs⟩
  · right
    cases mode with
    | detect => exact .inr (.inr ⟨rfl, hs, corAnswer_detect_of_ne_zeros hs⟩)
    | correct =>
      by_cases hcol : ∃ j < codeLen k, column (checkMatrix k) j = syndromeOf k w
      · obtain ⟨j, hj, h⟩ := hcol
        exact .inl ⟨rfl, j, hj, h.symm, corAnswer_of_column hj h.symm⟩
      · have hcol : ∀ j < codeLen k, column (checkMatrix k) j ≠ syndromeOf k w := by simpa using hcol
        exact .inr (.inl ⟨rfl, hs, hcol, corAnswer_of_no_column hw hs hcol⟩)

/-! ### The abstract outcome and the ports -/

/-- Settles O44: row by row. -/
theorem abstractOutcomeAgreesWithPorts : Obligations.AbstractOutcomeAgreesWithPorts := by
  intro k mode w _ hw
  obtain ⟨-, hr, hout, hbit, hno⟩ | ⟨-, j, -, -, hr, hout, hbit, hno⟩ | ⟨-, -, -, hr, hout, hbit, hno⟩ |
    ⟨-, -, hr, hout, hbit, hno⟩ := corAnswer_cases mode hw
  all_goals simp [hr, hout, hbit, hno]

/-- A result of `COR` is a word of zero syndrome (R91). -/
theorem zero_syndrome_of_checkCorrect {k : Nat} {mode : Mode} {w w' : Bits} (hw : w.length = codeLen k)
    (h : checkCorrect k mode w = .ok w') : w'.length = codeLen k ∧ syndromeOf k w' = zeros (minimalP k) := by
  obtain ⟨hs, hr, -⟩ | ⟨-, j, hj, hs, hr, -⟩ | ⟨-, -, -, hr, -⟩ | ⟨-, -, hr, -⟩ := corAnswer_cases mode hw
  · cases hr.symm.trans h
    exact ⟨hw, hs⟩
  · cases hr.symm.trans h
    exact ⟨by simp [hw], syndromeOf_flip_of_column hw hj hs⟩
  · cases hr.symm.trans h
  · cases hr.symm.trans h

/-- Settles O40: a word of zero syndrome falls under the first row, and every result is such a word. -/
theorem correctionIsIdempotent : Obligations.CorrectionIsIdempotent := by
  intro k mode w _ hw
  refine ⟨fun hs => (corAnswer_of_zeros mode hw hs).1, fun w' h => ?_⟩
  obtain ⟨hw', hs'⟩ := zero_syndrome_of_checkCorrect hw h
  exact ⟨hw', hs', (corAnswer_of_zeros mode hw' hs').1⟩

/-- The failures of `COR` (R99, R100): `NoColumnMatch` leaves a nonzero vector that is no column, so the code is
shortened. -/
theorem failure_of_checkCorrect {k : Nat} {mode : Mode} {w : Bits} {f : Failure} (hw : w.length = codeLen k)
    (h : checkCorrect k mode w = .error f) :
    (f = .bitError ∧ mode = .detect) ∨ (f = .noColumnMatch ∧ mode = .correct ∧ perfect k = false) := by
  obtain ⟨-, hr, -⟩ | ⟨-, j, -, -, hr, -⟩ | ⟨hmode, hs, hcol, hr, -⟩ | ⟨hmode, -, hr, -⟩ := corAnswer_cases mode hw
  · cases hr.symm.trans h
  · cases hr.symm.trans h
  · cases hr.symm.trans h
    refine .inr ⟨rfl, hmode, Bool.eq_false_iff.mpr fun hperf => ?_⟩
    obtain ⟨j, hj, h⟩ := exists_column_of_perfect hperf (length_syndromeOf k w) hs
    exact hcol j hj h
  · cases hr.symm.trans h
    exact .inl ⟨rfl, hmode⟩

/-! ### The evaluation of `COR` -/

@[simp] theorem State.correctorOutcome_k (s : State) (r : Except Failure Bits) : (s.correctorOutcome r).k = s.k := by
  cases r <;> rfl

@[simp] theorem State.correctorOutcome_mode (s : State) (r : Except Failure Bits) :
    (s.correctorOutcome r).mode = s.mode := by
  cases r <;> rfl

@[simp] theorem State.correctorOutcome_corCwIn (s : State) (r : Except Failure Bits) :
    (s.correctorOutcome r).corCwIn = s.corCwIn := by
  cases r <;> rfl

/-- `COR` on a word of the right length of an existing instance: its answer joins the run and stands on the ports. -/
theorem exec_cor_of_answer {s : State} {w out : Bits} {r : Except Failure Bits} {bitError noMatch : Bool}
    (hk : 1 ≤ s.k) (hl : w.length = codeLen s.k) (h : CorAnswer s.k s.mode w r out bitError noMatch) :
    ∃ t, exec (.cor w) s = .next t ∧ t = (s.driveCor w).correctorOutcome r ∧ t.cwOut = out ∧ t.bitError = bitError ∧
      t.noMatch = noMatch := by
  obtain ⟨hr, hout, hbit, hno⟩ := h
  refine ⟨_, exec_cor_of_valid hk hl, by rw [hr], ?_⟩
  simp [State.cwOut, State.bitError, State.noMatch, hout, hbit, hno]

/-- Settles O24: each row's answer, on the state that holds the word on `cw_in`. -/
theorem corOutcomeTable : Obligations.CorOutcomeTable := by
  intro s w hk hw
  refine ⟨fun hs => ?_, fun hmode j hj hs => ?_, fun hmode hs hcol => ?_, fun hmode hs => ?_⟩
  · exact exec_cor_of_answer hk hw (corAnswer_of_zeros s.mode hw hs)
  · exact exec_cor_of_answer hk hw (hmode ▸ corAnswer_of_column hj hs.symm)
  · obtain ⟨t, hexec, rfl, hports⟩ := exec_cor_of_answer hk hw (hmode ▸ corAnswer_of_no_column hw hs hcol)
    exact ⟨_, hexec, rfl, hports⟩
  · exact exec_cor_of_answer hk hw (hmode ▸ corAnswer_detect_of_ne_zeros hs)

/-- Settles O43: the sum of two codewords is a codeword, so its syndrome is zero. -/
theorem codewordErrorsUndetected : Obligations.CodewordErrorsUndetected := by
  intro s m e hk hm he
  have hs : syndromeOf s.k (vxor (encodeWord s.k m) (encodeWord s.k e)) = zeros (minimalP s.k) := by
    rw [← encodeWord_vxor (hm.trans he.symm), syndromeOf_encodeWord (by simp [hm, he])]
  obtain ⟨t, hexec, rfl, hports⟩ :=
    exec_cor_of_answer hk (by simp) (corAnswer_of_zeros s.mode (by simp) hs)
  exact ⟨_, _, rfl, hexec, rfl, hports⟩

/-! ### `NoColumnMatch` -/

/-- Adding vectors adds the numbers they hold, without carries. -/
theorem colval_vxor {u v : Bits} (h : u.length = v.length) : colval (vxor u v) = colval u ^^^ colval v := by
  have hbin : vxor u v = binP v.length (colval u ^^^ colval v) := by
    refine bits_ext (by simp [h]) fun r hr => ?_
    obtain ⟨hu, hv⟩ : r < u.length ∧ r < v.length := by simpa using hr
    rw [bitAt_vxor hu hv, bitAt_binP hv, Nat.testBit_xor, ← bitAt_binP hv, ← bitAt_binP hv, binP_colval, ← h,
      binP_colval]
  rw [hbin, colval_binP (Nat.xor_lt_two_pow (h ▸ colval_lt u) (colval_lt v))]

/-- `no_match` is 1 exactly on a nonzero syndrome that is no column (R88). -/
theorem noMatchPort_correct_iff {k : Nat} {w : Bits} (hw : w.length = codeLen k) :
    noMatchPort k .correct w = true ↔
      syndromeOf k w ≠ zeros (minimalP k) ∧ ¬ ∃ j, j < codeLen k ∧ column (checkMatrix k) j = syndromeOf k w := by
  obtain ⟨hs, -, -, -, hno⟩ | ⟨-, j, hj, hs, -, -, -, hno⟩ | ⟨-, hs, hcol, -, -, -, hno⟩ | ⟨hmode, -⟩ :=
    corAnswer_cases .correct hw
  · simp [hno, hs]
  · simpa [hno] using fun _ => ⟨j, hj, hs.symm⟩
  · simpa [hno, hs] using hcol
  · cases hmode

/-- Two flips of a codeword match no column exactly when the sum of the two values is the value of none (R93). -/
theorem noMatchPort_two_flips_iff {k a b : Nat} {m : Bits} (hm : m.length = k) (ha : a < codeLen k)
    (hb : b < codeLen k) (hab : a ≠ b) :
    noMatchPort k .correct (vxor (vxor (encodeWord k m) (onehot (codeLen k) a)) (onehot (codeLen k) b)) = true ↔
      (colval (column (checkMatrix k) a) ^^^ colval (column (checkMatrix k) b)) ∉ colVals k := by
  rw [noMatchPort_correct_iff (by simp), syndromeOf_two_flips hm ha hb, ← colval_vxor (by simp),
    colval_mem_colVals_iff (by simp)]
  exact and_iff_right (vxor_columns_ne_zeros ha hb hab)

theorem exec_cor_next {s t : State} {w : Bits} (h : exec (.cor w) s = .next t) :
    w.length = codeLen s.k ∧ t = (s.driveCor w).correctorOutcome (checkCorrect s.k s.mode w) := by
  obtain ⟨-, hw, ht⟩ := evaluate_eq_next.mp h
  exact ⟨hw, ht.symm⟩

/-- Settles O42: `no_match` follows the syndrome, and the run of a raised `no_match` is that of the third row. -/
theorem noColumnMatchExactly : Obligations.NoColumnMatchExactly := by
  intro s t w hk hmode hexec
  obtain ⟨hw, rfl⟩ := exec_cor_next hexec
  have hport : ((s.driveCor w).correctorOutcome (checkCorrect s.k s.mode w)).noMatch = noMatchPort s.k .correct w := by
    simp [State.noMatch, hmode]
  rw [hport]
  refine ⟨fun hno => ?_, fun hperf => ?_, fun m hm => ⟨?_, ?_, ?_⟩⟩
  · obtain ⟨hs, hcol⟩ := (noMatchPort_correct_iff hw).mp hno
    obtain ⟨hr, hout, hbit, -⟩ := corAnswer_of_no_column hw hs (by simpa using hcol)
    rw [hmode, hr]
    refine ⟨rfl, ?_, ?_, rfl⟩
    · simp [State.cwOut, hmode, hout]
    · simp [State.bitError, hmode]
  · refine Bool.eq_false_iff.mpr fun hno => ?_
    obtain ⟨hs, hcol⟩ := (noMatchPort_correct_iff hw).mp hno
    exact hcol (exists_column_of_perfect hperf (length_syndromeOf s.k w) hs)
  · rintro rfl
    obtain ⟨-, -, -, hno⟩ := corAnswer_of_zeros .correct hw (syndromeOf_encodeWord hm)
    exact hno
  · rintro j hj rfl
    exact noMatchPort_of_column hj (syndromeOf_one_flip hm hj)
  · rintro a b ha hb hab rfl
    exact noMatchPort_two_flips_iff hm ha hb hab

end Sys2Proof.Machine
end

section
/-! SUPPORT. The output ports as functions of the input ports (10_state.md R9, R20). -/

namespace Sys2Proof.Machine

/-- Line `j` compares the syndrome with column `j` of `H` row by row, whatever the syndrome's length (R80). -/
theorem bitAt_matchLines_iff_entries {k j : Nat} (s : Bits) (hj : j < codeLen k) :
    bitAt (matchLines k s) j = true ↔ ∀ r, r < minimalP k → bitAt s r = entry (checkMatrix k) r j := by
  rw [matchLines, bitAt_map_range _ hj]
  simp

theorem errPosOut_of_position {k j : Nat} {s : Bits} (h : positionOf k s = some j) (draw : Nat) :
    errPosOut k draw s = ofPortInt (posWidth k) j := by
  simp [errPosOut, h]

/-- Settles O19: the ports are these functions by definition; `match` is compared with the entries of `H`, and the
corrector's ports take one form per mode. -/
theorem outputPortsFollowInputs : Obligations.OutputPortsFollowInputs := by
  intro s
  refine ⟨rfl, rfl, rfl, rfl, rfl, length_matchLines _ _, fun _ => bitAt_matchLines_iff_entries _, rfl,
    length_errPosOut _ _ _, fun j h => errPosOut_of_position h _, fun hmode => ?_, fun hmode => ?_⟩
  · rw [State.cwOut, State.bitError, State.noMatch, hmode]
    exact ⟨rfl, rfl, rfl⟩
  · rw [State.cwOut, State.bitError, State.noMatch, hmode]
    exact ⟨rfl, rfl, rfl⟩

end Sys2Proof.Machine
end

section
/-! SUPPORT. One evaluation: when it completes, the one outcome it adds, and what it leaves unchanged (00_scope.md R8;
10_state.md R22, R24; 20_memory.md R27, R32). -/

namespace Sys2Proof.Machine

/-! ### Completion -/

/-- Every operation is an evaluation guarded by its operand's exact length. -/
theorem exec_eq_evaluate (i : Instr) (s : State) : ∃ r, exec i s = evaluate (i.operandLen s.k) i.operand s r := by
  cases i <;> exact ⟨_, rfl⟩

theorem wellFormed_eq_false_iff {k : Nat} {i : Instr} :
    wellFormed k i = false ↔ i.operand.length ≠ i.operandLen k := by
  simp [wellFormed]

/-- Settles O25: the guard of the evaluation decides. -/
theorem operationsCompleteExactlyWhenWellFormed : Obligations.OperationsCompleteExactlyWhenWellFormed := by
  intro i s
  obtain ⟨r, hr⟩ := exec_eq_evaluate i s
  rw [hr]
  refine ⟨fun hk hw => ⟨r, evaluate_of_valid hk (wellFormed_eq_true_iff.mp hw) r⟩,
    fun hk hw => evaluate_of_wrong_length hk (wellFormed_eq_false_iff.mp hw) r, fun hk => ?_, evaluate_ne_fault _ _ s r⟩
  simp [evaluate, hk]

/-! ### The outcome -/

/-- The outcome of an operation, a function of the constants, the operand and the free draw (R24). -/
def outcomeOf (k : Nat) (mode : Mode) (draw : Nat) : Instr → OpOutcome
  | .enc m => .ok (.codeword (encodeWord k m))
  | .ext w => .ok (.message (extractMessage k w))
  | .syn w => .ok (.syndrome (syndromeOf k w) (synNonzeroFlag (syndromeOf k w)))
  | .pos v => .ok (.position (matchLines k v) (errValidFlag (matchLines k v)) (errPosOut k draw v))
  | .cor w =>
    match checkCorrect k mode w with
    | .ok w' => .ok (.corrected w')
    | .error f => .fail f

theorem outcomeOf_cor_of_ok {k : Nat} {mode : Mode} {w w' : Bits} (draw : Nat) (h : checkCorrect k mode w = .ok w') :
    outcomeOf k mode draw (.cor w) = .ok (.corrected w') := by
  simp [outcomeOf, h]

theorem outcomeOf_cor_of_error {k : Nat} {mode : Mode} {w : Bits} {f : Failure} (draw : Nat)
    (h : checkCorrect k mode w = .error f) : outcomeOf k mode draw (.cor w) = .fail f := by
  simp [outcomeOf, h]

/-- An evaluation adds its outcome to the run and nothing else (R8, R126). -/
theorem exec_outcomes {i : Instr} {s t : State} (h : exec i s = .next t) :
    t.outcomes = s.outcomes ++ [outcomeOf s.k s.mode (s.posDraw + 1) i] := by
  obtain ⟨-, -, ⟨m, rfl, rfl⟩ | ⟨w, rfl, rfl⟩ | ⟨w, rfl, rfl⟩ | ⟨v, rfl, rfl⟩ | ⟨w, rfl, rfl⟩⟩ := exec_next_cases h
  · rfl
  · rfl
  · rfl
  · rfl
  · cases hr : checkCorrect s.k s.mode w with
    | ok w' => rw [outcomeOf_cor_of_ok _ hr]; rfl
    | error f => rw [outcomeOf_cor_of_error _ hr]; rfl

/-- The fault mark is set by `NoColumnMatch` and touched by nothing else (R126). -/
theorem exec_runFault {i : Instr} {s t : State} (h : exec i s = .next t) :
    t.runFault =
      if outcomeOf s.k s.mode (s.posDraw + 1) i = .fail .noColumnMatch then some .noColumnMatch else s.runFault := by
  obtain ⟨-, -, ⟨m, rfl, rfl⟩ | ⟨w, rfl, rfl⟩ | ⟨w, rfl, rfl⟩ | ⟨v, rfl, rfl⟩ | ⟨w, rfl, rfl⟩⟩ := exec_next_cases h
  · simp [outcomeOf]
  · simp [outcomeOf]
  · simp [outcomeOf]
  · simp [outcomeOf]
  · cases hr : checkCorrect s.k s.mode w with
    | ok w' => simp [outcomeOf_cor_of_ok _ hr, State.correctorOutcome]
    | error f =>
      rw [outcomeOf_cor_of_error _ hr]
      cases f <;> simp [State.correctorOutcome, Failure.mark]

theorem exec_operand_length {i : Instr} {s t : State} (h : exec i s = .next t) :
    i.operand.length = i.operandLen s.k := by
  obtain ⟨-, hlen, -⟩ := exec_next_cases h
  exact hlen

/-- Settles O26: the outcome is `ok` but for a `COR`, whose failures are those of `checkCorrect`. -/
theorem onlyCorFails : Obligations.OnlyCorFails := by
  intro i s t h
  refine ⟨_, exec_outcomes h, ?_⟩
  cases i with
  | enc m => exact .inl ⟨_, rfl⟩
  | ext w => exact .inl ⟨_, rfl⟩
  | syn w => exact .inl ⟨_, rfl⟩
  | pos v => exact .inl ⟨_, rfl⟩
  | cor w =>
    cases hr : checkCorrect s.k s.mode w with
    | ok w' => exact .inl ⟨_, outcomeOf_cor_of_ok _ hr⟩
    | error f =>
      refine .inr ⟨w, rfl, ?_⟩
      rw [outcomeOf_cor_of_error _ hr]
      obtain ⟨rfl, hmode⟩ | ⟨rfl, hmode, -⟩ := failure_of_checkCorrect (exec_operand_length h) hr
      · exact .inl ⟨rfl, hmode⟩
      · exact .inr ⟨rfl, hmode⟩

/-- With a match `err_pos` does not depend on the free draw (R82). -/
theorem errPosOut_eq_of_errValid {k : Nat} {v : Bits} (hv : v.length = minimalP k)
    (hvalid : errValidFlag (matchLines k v) = true) (draw draw' : Nat) : errPosOut k draw v = errPosOut k draw' v := by
  obtain ⟨j, hj, rfl⟩ := (errValidFlag_matchLines_iff hv).mp hvalid
  rw [errPosOut_column hj, errPosOut_column hj]

/-- Two draws give the same outcome but for `err_pos` without a match (R82). -/
theorem outcomeOf_draw {k : Nat} (mode : Mode) {i : Instr} (hl : i.operand.length = i.operandLen k)
    (draw draw' : Nat) :
    outcomeOf k mode draw i = outcomeOf k mode draw' i ∨
      ∃ lines pos pos', outcomeOf k mode draw i = .ok (.position lines false pos) ∧
        outcomeOf k mode draw' i = .ok (.position lines false pos') := by
  cases i with
  | enc m => exact .inl rfl
  | ext w => exact .inl rfl
  | syn w => exact .inl rfl
  | pos v =>
    rw [outcomeOf, outcomeOf]
    cases hvalid : errValidFlag (matchLines k v) with
    | true => exact .inl (by rw [errPosOut_eq_of_errValid (v := v) hl hvalid draw draw'])
    | false => exact .inr ⟨_, _, _, rfl, rfl⟩
  | cor w => exact .inl rfl

/-- Settles O28: of the run before it an outcome sees the draw counter only. -/
theorem outcomeDependsOnOperandAndConstants : Obligations.OutcomeDependsOnOperandAndConstants := by
  intro i s s' t t' hk hmode h h'
  refine ⟨_, _, exec_outcomes h, exec_outcomes h', ?_⟩
  rw [← hk, ← hmode]
  exact outcomeOf_draw s.mode (exec_operand_length h) _ _

/-! ### The frame -/

/-- What an evaluation of `COR` leaves unchanged, whatever its outcome. -/
theorem correctorOutcome_frame (s : State) (r : Except Failure Bits) :
    (s.correctorOutcome r).pending = s.pending ∧ (s.correctorOutcome r).encMsg = s.encMsg ∧
      (s.correctorOutcome r).extCwIn = s.extCwIn ∧ (s.correctorOutcome r).synCwIn = s.synCwIn ∧
      (s.correctorOutcome r).posSyndrome = s.posSyndrome ∧ (s.correctorOutcome r).posDraw = s.posDraw := by
  cases r <;> exact ⟨rfl, rfl, rfl, rfl, rfl, rfl⟩

/-- Settles O27: each evaluation drives one input port, and an output port is a function of its own unit's input. -/
theorem evaluationFrame : Obligations.EvaluationFrame := by
  intro i s t h
  have hrun : ∃ o, t.outcomes = s.outcomes ++ [o] ∧ (o ≠ .fail .noColumnMatch → t.runFault = s.runFault) :=
    ⟨_, exec_outcomes h, fun ho => (exec_runFault h).trans (if_neg ho)⟩
  obtain ⟨-, -, ⟨m, rfl, rfl⟩ | ⟨w, rfl, rfl⟩ | ⟨w, rfl, rfl⟩ | ⟨v, rfl, rfl⟩ | ⟨w, rfl, rfl⟩⟩ := exec_next_cases h
  · exact ⟨rfl, rfl, rfl, hrun, .inl ⟨m, rfl, rfl⟩, .inr ⟨rfl, rfl⟩, .inr ⟨rfl, rfl, rfl⟩,
      .inr ⟨rfl, rfl, rfl, rfl, rfl⟩, .inr ⟨rfl, rfl, rfl, rfl⟩⟩
  · exact ⟨rfl, rfl, rfl, hrun, .inr ⟨rfl, rfl⟩, .inl ⟨w, rfl, rfl⟩, .inr ⟨rfl, rfl, rfl⟩,
      .inr ⟨rfl, rfl, rfl, rfl, rfl⟩, .inr ⟨rfl, rfl, rfl, rfl⟩⟩
  · exact ⟨rfl, rfl, rfl, hrun, .inr ⟨rfl, rfl⟩, .inr ⟨rfl, rfl⟩, .inl ⟨w, rfl, rfl⟩,
      .inr ⟨rfl, rfl, rfl, rfl, rfl⟩, .inr ⟨rfl, rfl, rfl, rfl⟩⟩
  · exact ⟨rfl, rfl, rfl, hrun, .inr ⟨rfl, rfl⟩, .inr ⟨rfl, rfl⟩, .inr ⟨rfl, rfl, rfl⟩,
      .inl ⟨v, rfl, rfl⟩, .inr ⟨rfl, rfl, rfl, rfl⟩⟩
  · obtain ⟨hpending, henc, hext, hsyn, hpos, hdraw⟩ :=
      correctorOutcome_frame (s.driveCor w) (checkCorrect s.k s.mode w)
    refine ⟨State.correctorOutcome_k _ _, State.correctorOutcome_mode _ _, hpending, hrun, .inr ⟨henc, ?_⟩,
      .inr ⟨hext, ?_⟩, .inr ⟨hsyn, ?_, ?_⟩, .inr ⟨hpos, hdraw, ?_, ?_, ?_⟩,
      .inl ⟨w, rfl, State.correctorOutcome_corCwIn _ _⟩⟩
    · simp [State.cw, henc]
    · simp [State.msgOut, hext]
    · simp [State.syndrome, hsyn]
    · simp [State.synNonzero, State.syndrome, hsyn]
    · simp [State.posMatch, hpos]
    · simp [State.errValid, State.posMatch, hpos]
    · simp [State.errPos, hpos, hdraw]

end Sys2Proof.Machine
end

section
/-! SUPPORT. Runs: what a step keeps, and the invariant of every state a run can reach (10_state.md R10, R20;
70_reset_and_hazards.md R126). -/

namespace Sys2Proof.Machine

/-- Settles O49: the evaluation of the head keeps the constants and adds one outcome; an evaluation that does not mark
the run leaves the mark as it is. -/
theorem stepKeepsConstantsAndHistory : Obligations.StepKeepsConstantsAndHistory := by
  intro s t h
  obtain ⟨hp, rfl⟩ | ⟨d, rest, i, hp, -, hexec⟩ := step_next_cases h
  · simp [hp]
  · obtain ⟨hk, hmode, hpending, -⟩ := evaluationFrame i _ t hexec
    have hout := exec_outcomes hexec
    refine ⟨hk, hmode, by simpa [hp] using hpending, ⟨_, hout.symm⟩, by simp [hout, hp, hpending], fun hmark => ?_⟩
    rw [exec_runFault hexec]
    split
    · rfl
    · exact hmark

/-! ### Legal outcomes -/

/-- The flag beside a syndrome is 1 exactly when the syndrome is not zero, and `match` is one-hot or zero; the words
given back have zero syndrome; the failures are those of `COR`. -/
theorem outcomeOf_legal {k : Nat} (mode : Mode) (draw : Nat) {i : Instr} (hk : 1 ≤ k)
    (hl : i.operand.length = i.operandLen k) : OutcomeLegal k mode (outcomeOf k mode draw i) := by
  cases i with
  | enc m => exact ⟨length_encodeWord k m, syndromeOf_encodeWord hl⟩
  | ext w =>
    have hw : w.length = codeLen k := hl
    exact length_extractMessage (by simp [hw, codeLen])
  | syn w => exact ⟨length_syndromeOf k w, synNonzeroFlag_eq_true_iff⟩
  | pos v =>
    refine ⟨length_errPosOut k draw v, ?_⟩
    obtain ⟨-, -, ⟨hvalid, hlines⟩ | ⟨hvalid, j, hj, hlines, hpos, -⟩⟩ := matchIsOneHotOrZero k draw v hk hl
    · exact .inl ⟨hvalid, hlines⟩
    · exact .inr ⟨hvalid, hpos ▸ hj, hpos ▸ hlines⟩
  | cor w =>
    cases hr : checkCorrect k mode w with
    | ok w' =>
      rw [outcomeOf_cor_of_ok draw hr]
      exact zero_syndrome_of_checkCorrect hl hr
    | error f =>
      rw [outcomeOf_cor_of_error draw hr]
      obtain ⟨rfl, hmode⟩ | ⟨rfl, hmode⟩ := failure_of_checkCorrect hl hr
      · exact hmode
      · exact hmode

/-! ### The invariant -/

theorem inv_fresh {k : Nat} (mode : Mode) (hk : 1 ≤ k) : (State.fresh k mode).Inv where
  exists_hardware := hk
  encMsg_width := length_zeros _
  extCwIn_width := length_zeros _
  synCwIn_width := length_zeros _
  posSyndrome_width := length_zeros _
  corCwIn_width := length_zeros _
  outcomes_legal := by simp
  fault_mark := by simp

/-- Settles O50: a fresh instance holds zeros of the right widths and an empty list of outcomes. -/
theorem freshInstancesMeetInvariant : Obligations.FreshInstancesMeetInvariant :=
  ⟨inv_fresh _ (by decide), fun _ mode => inv_fresh mode⟩

/-- The invariant says nothing of the operations still to come. -/
theorem inv_withPending {s : State} (h : s.Inv) (rest : List Descriptor) : { s with pending := rest }.Inv :=
  ⟨h.exists_hardware, h.encMsg_width, h.extCwIn_width, h.synCwIn_width, h.posSyndrome_width, h.corCwIn_width,
    h.outcomes_legal, h.fault_mark⟩

/-- An input port that gets an operand of its width, or keeps its value, keeps its width. -/
theorem length_of_driven {i : Instr} {op : Bits → Instr} {old new : Bits} {n : Nat} {P : Prop}
    (h : (∃ v, i = op v ∧ new = v) ∨ (new = old ∧ P)) (hdriven : ∀ v, i = op v → v.length = n)
    (hkept : old.length = n) : new.length = n := by
  obtain ⟨v, hi, rfl⟩ | ⟨rfl, -⟩ := h
  · exact hdriven _ hi
  · exact hkept

/-- Every evaluation keeps the invariant: a driven port gets an operand of its width, the others keep their value, and
the outcome that joins the run is legal and sets the mark exactly when it is `NoColumnMatch`. -/
theorem exec_keeps_inv {i : Instr} {s t : State} (hinv : s.Inv) (h : exec i s = .next t) : t.Inv := by
  have hlen := exec_operand_length h
  have hout := exec_outcomes h
  obtain ⟨hk, hmode, -, -, henc, hext, hsyn, hpos, hcor⟩ := evaluationFrame i s t h
  constructor
  case exists_hardware => exact hk ▸ hinv.exists_hardware
  case encMsg_width =>
    rw [hk]
    exact length_of_driven henc (by rintro v rfl; exact hlen) hinv.encMsg_width
  case extCwIn_width =>
    rw [hk]
    exact length_of_driven hext (by rintro v rfl; exact hlen) hinv.extCwIn_width
  case synCwIn_width =>
    rw [hk]
    exact length_of_driven hsyn (by rintro v rfl; exact hlen) hinv.synCwIn_width
  case posSyndrome_width =>
    rw [hk]
    exact length_of_driven hpos (by rintro v rfl; exact hlen) hinv.posSyndrome_width
  case corCwIn_width =>
    rw [hk]
    exact length_of_driven hcor (by rintro v rfl; exact hlen) hinv.corCwIn_width
  case outcomes_legal =>
    rw [hout, hk, hmode]
    intro o ho
    obtain ho | ho := List.mem_append.mp ho
    · exact hinv.outcomes_legal o ho
    · rw [List.mem_singleton.mp ho]
      exact outcomeOf_legal s.mode _ hinv.exists_hardware hlen
  case fault_mark =>
    rw [exec_runFault h, hout, List.mem_append, List.mem_singleton, ← hinv.fault_mark, eq_comm (a := OpOutcome.fail _)]
    split
    · next ho => simp [ho]
    · next ho => simp [ho]

/-- Settles O51: a step that changes anything evaluates the head of the run. -/
theorem stepKeepsInvariant : Obligations.StepKeepsInvariant := by
  intro s t hinv h
  obtain ⟨-, rfl⟩ | ⟨d, rest, i, -, -, hexec⟩ := step_next_cases h
  · exact hinv
  · exact exec_keeps_inv (inv_withPending hinv rest) hexec

end Sys2Proof.Machine
end

section
/-! SUPPORT. Scripts: `RECOVER`, `FLIP` and the fault mark of the bench (30_encoding.md R47; 45_corrector.md R95;
70_reset_and_hazards.md R126). -/

namespace Sys2Proof.Machine

/-! ### `RECOVER` -/

/-- `COR` in a script, by its abstract outcome. -/
theorem evaluateOn_cor_of_ok {s : State} {w w' : Bits} (hk : 1 ≤ s.k) (hw : w.length = codeLen s.k)
    (h : checkCorrect s.k s.mode w = .ok w') :
    evaluateOn s (.cor w) = .ok ((s.driveCor w).record (.corrected w')) (.corrected w') := by
  have hexec : exec (.cor w) s = .next ((s.driveCor w).record (.corrected w')) := by
    rw [exec_cor_of_valid hk hw, h]
    rfl
  exact evaluateOn_of_ok hexec rfl

theorem evaluateOn_cor_of_error {s : State} {w : Bits} {f : Failure} (hk : 1 ≤ s.k) (hw : w.length = codeLen s.k)
    (h : checkCorrect s.k s.mode w = .error f) : evaluateOn s (.cor w) = .fail ((s.driveCor w).fail f) f := by
  have hexec : exec (.cor w) s = .next ((s.driveCor w).fail f) := by
    rw [exec_cor_of_valid hk hw, h]
    rfl
  exact evaluateOn_of_fail hexec rfl

/-- After a `COR` that returns a word, `EXT` takes the message from it; both outcomes join the run. -/
theorem recoverOn_of_ok {s : State} {w w' : Bits} (hk : 1 ≤ s.k) (hw : w.length = codeLen s.k)
    (h : checkCorrect s.k s.mode w = .ok w') :
    ∃ u, recoverOn s w = .ok u (.message (extractMessage s.k w')) ∧
      u.outcomes = s.outcomes ++ [.ok (.corrected w'), .ok (.message (extractMessage s.k w'))] := by
  obtain ⟨hw', -⟩ := zero_syndrome_of_checkCorrect hw h
  have hcor : recoverOn s w = evaluateOn ((s.driveCor w).record (.corrected w')) (.ext w') := by
    rw [recoverOn, evaluateOn_cor_of_ok hk hw h]
  have hext := exec_ext_of_valid (s := (s.driveCor w).record (.corrected w')) hk hw'
  exact ⟨_, hcor.trans (evaluateOn_of_ok hext rfl), by simp⟩

theorem recoverOn_of_error {s : State} {w : Bits} {f : Failure} (hk : 1 ≤ s.k) (hw : w.length = codeLen s.k)
    (h : checkCorrect s.k s.mode w = .error f) : recoverOn s w = .fail ((s.driveCor w).fail f) f := by
  rw [recoverOn, evaluateOn_cor_of_error hk hw h]

/-- Settles O46: one clause for each abstract outcome of `COR`. -/
theorem recoverIsCorThenExt : Obligations.RecoverIsCorThenExt := by
  intro s w hk hw
  refine ⟨fun w' h => ?_, fun f h => ⟨_, recoverOn_of_error hk hw h⟩⟩
  obtain ⟨u, hu, -⟩ := recoverOn_of_ok hk hw h
  exact ⟨u, hu⟩

/-- Settles O45: `COR` flips the bit back, and the message of the codeword is extracted. -/
theorem recoverAfterOneFlip : Obligations.RecoverAfterOneFlip := by
  intro s m j hk hmode hm hj
  have hcor := checkCorrect_of_column hj (syndromeOf_one_flip hm hj)
  rw [vxor_vxor_cancel (by simp), ← hmode] at hcor
  obtain ⟨u, hu, hout⟩ := recoverOn_of_ok hk (by simp) hcor
  rw [extractMessage_encodeWord hm] at hu hout
  exact ⟨u, hu, hout⟩

/-! ### `FLIP` -/

theorem flipBits_cons (v : Bits) (j : Nat) (js : List Nat) :
    flipBits v (j :: js) = flipBits (vxor v (onehot v.length j)) js := rfl

theorem flipBits_append (v : Bits) (js ks : List Nat) : flipBits v (js ++ ks) = flipBits (flipBits v js) ks :=
  List.foldl_append

@[simp] theorem length_flipBits (v : Bits) (js : List Nat) : (flipBits v js).length = v.length := by
  induction js generalizing v with
  | nil => rfl
  | cons j js ih => simp [flipBits_cons, ih]

/-- Flips commute with the addition of any vector. -/
theorem flipBits_vxor {v e : Bits} (h : v.length = e.length) (js : List Nat) :
    flipBits (vxor v e) js = vxor (flipBits v js) e := by
  induction js generalizing v with
  | nil => rfl
  | cons j js ih =>
    have hlen : (vxor v e).length = v.length := by simp [h]
    have hswap : vxor (vxor v e) (onehot v.length j) = vxor (vxor v (onehot v.length j)) e := by
      rw [vxor_assoc, vxor_comm e, ← vxor_assoc]
    rw [flipBits_cons, flipBits_cons, hlen, hswap, ih (by simp [h])]

/-- Listing the same positions twice restores the word: the two flips of each position meet and cancel. -/
theorem flipBits_flipBits (v : Bits) (js : List Nat) : flipBits (flipBits v js) js = v := by
  induction js generalizing v with
  | nil => rfl
  | cons j js ih =>
    have hlen : (flipBits (vxor v (onehot v.length j)) js).length = v.length := by simp
    rw [flipBits_cons, flipBits_cons, hlen, flipBits_vxor (by simp), ih, vxor_vxor_cancel (by simp)]

theorem bitAt_flipBits_singleton {v : Bits} {i : Nat} (hi : i < v.length) (j : Nat) :
    bitAt (flipBits v [j]) i = Bool.xor (bitAt v i) (decide (i = j)) := by
  rw [flipBits_cons, ← bitAt_onehot hi j]
  exact bitAt_vxor hi (by simpa using hi)

/-- Settles O47: flips are additions of one-hot vectors. -/
theorem flipTwiceRestores : Obligations.FlipTwiceRestores := by
  intro v js _
  refine ⟨?_, length_flipBits v js, fun j i _ hi => bitAt_flipBits_singleton hi j⟩
  rw [flipBits_append, flipBits_flipBits]

/-! ### The fault mark of the bench -/

@[simp] theorem Bench.settle_value (b : Bench) (a : Arg) : b.settle.value a = b.value a := by
  cases a <;> rfl

theorem Failure.mark_none_isSome_iff {f : Failure} : (f.mark none).isSome = true ↔ f = .noColumnMatch := by
  cases f <;> simp [Failure.mark]

/-- Between two states of the bench the mark stays, and it appears with the failure `NoColumnMatch` only. -/
def Bench.MarkFollows (b b' : Bench) : Prop :=
  (b.faulted = true → b'.faulted = true) ∧
    (b'.faulted = true → b.faulted = true ∨ b'.lastFailure = some .noColumnMatch)

theorem Bench.MarkFollows.of_faulted_eq {b b' : Bench} (h : b'.faulted = b.faulted) : b.MarkFollows b' :=
  ⟨fun hb => h ▸ hb, fun hb' => .inl (h ▸ hb')⟩

theorem Bench.markFollows_absorb (b : Bench) (x : String) (r : LineResult) : b.MarkFollows (b.absorb x r) := by
  cases r with
  | ok s v => exact .of_faulted_eq rfl
  | meaningless => exact .of_faulted_eq rfl
  | fail s f =>
    refine ⟨fun hb => by simp [absorb, hb], fun hb' => ?_⟩
    obtain hb | hf := Bool.or_eq_true_iff.mp hb'
    · exact .inl hb
    · exact .inr (congrArg some (Failure.mark_none_isSome_iff.mp hf))

theorem Bench.markFollows_onInstance (b : Bench) (x : String) (a : Arg) (run : State → Bits → LineResult) :
    b.MarkFollows (b.settle.onInstance x a run) := by
  unfold onInstance
  split
  · exact b.settle.markFollows_absorb x _
  · exact .of_faulted_eq rfl

/-- Of the lines only an operation and `RECOVER` can touch the mark. -/
theorem Bench.markFollows_line (b : Bench) (l : Line) : b.MarkFollows (b.line l) := by
  cases l with
  | op x o a => exact b.markFollows_onInstance x a _
  | recover x a => exact b.markFollows_onInstance x a _
  | code k mode =>
    refine .of_faulted_eq ?_
    rw [line]
    split <;> rfl
  | flip x a js =>
    refine .of_faulted_eq ?_
    rw [line]
    split
    · split <;> rfl
    · rfl
  | expect x a =>
    refine .of_faulted_eq ?_
    rw [line]
    split
    · split <;> rfl
    · rfl
  | expectFail f =>
    refine .of_faulted_eq ?_
    rw [line]
    split <;> rfl

/-- No list of lines takes the mark back. -/
theorem Bench.faulted_foldl_line {b : Bench} (ls : List Line) (h : b.faulted = true) :
    (ls.foldl Bench.line b).faulted = true := by
  induction ls generalizing b with
  | nil => exact h
  | cons l ls ih => exact ih ((b.markFollows_line l).1 h)

/-- A line whose result is `fail(NoColumnMatch)` marks the run (R126). -/
theorem Bench.marked_onInstance {b : Bench} {s t : State} {x : String} {a : Arg} {w : Bits}
    {run : State → Bits → LineResult} (hinst : b.inst = some s) (hval : b.value a = some w)
    (hrun : run s w = .fail t .noColumnMatch) :
    (b.settle.onInstance x a run).faulted = true ∧
      (b.settle.onInstance x a run).lastFailure = some .noColumnMatch := by
  simp [onInstance, hinst, hval, hrun, absorb, Failure.mark]

/-- Settles O48: the two lines that evaluate `COR` have its failure as their result; every line keeps the mark and sets
it with that failure only. -/
theorem scriptFaultMarkSetAndStays : Obligations.ScriptFaultMarkSetAndStays := by
  refine ⟨fun b s x a w hinst hval hk hw hcor => ⟨?_, ?_⟩, fun b l => (b.markFollows_line l).2,
    fun b ls => Bench.faulted_foldl_line ls⟩
  · exact Bench.marked_onInstance hinst hval (evaluateOn_cor_of_error hk hw hcor)
  · exact Bench.marked_onInstance hinst hval (recoverOn_of_error hk hw hcor)

end Sys2Proof.Machine
end
